-- ==== Sys2Proof/Word.lean ====
section
/-! DEFINITION. The data the core moves: text lines, values and flag values (spec 00_scope R14, R15). -/

namespace Sys2Proof

/-- `Text` of R15: a finite string of characters, held as the list of them. -/
abbrev Text := List Char

/-- `Val` of R15: an integer of unbounded width, or `none` for the absent value NONE, which differs from 0. -/
abbrev Val := Option Int

/-- `Bit?` of R15: 0 (`some false`), 1 (`some true`), or `none` for a flag never written. -/
abbrev Flag := Option Bool

end Sys2Proof
end

