-- ==== Sys2Proof/Machine/Bits.lean ====
section
/-! DEFINITION. The bit view of integers and the operators on it (spec 00_scope R16, R17): every integer is an infinite
two's-complement bit string. -/

namespace Sys2Proof.Machine

/-- `v[i]` of R16: `floor(v / 2^i) mod 2`. -/
def bitAt (v : Int) (i : Nat) : Bool :=
  Int.fdiv v (2 ^ i) % 2 == 1

/-- `v[hi:lo]` of R16: `floor(v / 2^lo) mod 2^(hi-lo+1)`. -/
def bitSlice (v : Int) (hi lo : Nat) : Int :=
  Int.fdiv v (2 ^ lo) % 2 ^ (hi - lo + 1)

/-- `~b` of R17, the complement of every bit, which is `-b - 1`. -/
def bitNot (b : Int) : Int :=
  -b - 1

/-- The bits of `a` that are not bits of `b`, on naturals. -/
def natAndNot (a b : Nat) : Nat :=
  a ^^^ (a &&& b)

/-- `a & b` of R17. A negative integer is the complement of a natural, so that each case is an operation on naturals. -/
def bitAnd : Int → Int → Int
  | .ofNat a, .ofNat b => .ofNat (a &&& b)
  | .ofNat a, .negSucc b => .ofNat (natAndNot a b)
  | .negSucc a, .ofNat b => .ofNat (natAndNot b a)
  | .negSucc a, .negSucc b => .negSucc (a ||| b)

/-- `a | b` of R17. -/
def bitOr : Int → Int → Int
  | .ofNat a, .ofNat b => .ofNat (a ||| b)
  | .ofNat a, .negSucc b => .negSucc (natAndNot b a)
  | .negSucc a, .ofNat b => .negSucc (natAndNot a b)
  | .negSucc a, .negSucc b => .negSucc (a &&& b)

/-- `a ^ b` of R17. -/
def bitXor : Int → Int → Int
  | .ofNat a, .ofNat b => .ofNat (a ^^^ b)
  | .ofNat a, .negSucc b => .negSucc (a ^^^ b)
  | .negSucc a, .ofNat b => .negSucc (a ^^^ b)
  | .negSucc a, .negSucc b => .ofNat (a ^^^ b)

/-- `a fdiv b` of R17, floor division. R17 gives it for `b ≠ 0` only; DIV never asks for another (41_alu R190). -/
def floorDiv (a b : Int) : Int :=
  Int.fdiv a b

end Sys2Proof.Machine
end

