-- ==== Sys2Proof/Machine/Chars.lean ====
section
/-! DEFINITION. Classes of characters and of short texts that the tokenizer, the operand forms, the loader and the constraints on
register names use (spec 30_encoding R102, R104, R106; 70_reset R312; 00_scope R12). -/

namespace Sys2Proof.Machine

/-- ASCII whitespace of R102: space, tab, CR, LF, VT, FF. -/
def isAsciiSpace (c : Char) : Bool :=
  c == ' ' || c == '\t' || c == '\r' || c == '\n' || c == '\x0b' || c == '\x0c'

/-- A separator of R102: a comma or an ASCII whitespace character. -/
def isSep (c : Char) : Bool :=
  c == ',' || isAsciiSpace c

/-- An ASCII digit (R104, class 2). -/
def isAsciiDigit (c : Char) : Bool :=
  '0'.toNat ≤ c.toNat && c.toNat ≤ '9'.toNat

/-- A non-empty text of ASCII digits only: the test of an immediate (R104, class 2). -/
def isDigitString (t : Text) : Bool :=
  !t.isEmpty && t.all isAsciiDigit

/-- No character of `t` is a separator: what the grammar of R101 asks of every character of a token. -/
def hasNoSep (t : Text) : Bool :=
  t.all (fun c => !isSep c)

/-- The loader's blank line of R312: empty, or made only of ASCII whitespace. -/
def isBlank (line : Text) : Bool :=
  line.all isAsciiSpace

end Sys2Proof.Machine
end

