-- ==== Sys2Proof/Config.lean ====
section
/-! DEFINITION. The parameters the core is constructed with (spec 00_scope R11 to R13). The spec leaves them OPEN. A core carries
its own (Machine/State.lean), so that a statement about every state is one about every configuration (log 1). -/

namespace Sys2Proof

/-- The construction-time parameters of R11. -/
structure Config where
  /-- `GPR_NAMES`: the general-purpose register names. -/
  gprNames : List Text
  /-- `IMEM_SIZE`: the number of instruction-memory slots. -/
  imemSize : Nat
  /-- `DMEM_SIZE`: the number of data-memory words. -/
  dmemSize : Nat
deriving DecidableEq, Repr

/-- The names no general-purpose register may have (R12, fifth constraint): those of the special registers. -/
def specialNames : List Text :=
  ["PC".toList, "MAR".toList, "IR".toList, "MBR".toList]

/-- The constraints R12 puts on one name. -/
def gprNameOk (n : Text) : Bool :=
  !n.isEmpty && !Machine.isDigitString n && n.head? != some '*' && Machine.hasNoSep n && !specialNames.contains n

/-- R12's constraint on the set of names: not empty, no name twice, each name as R12 asks. -/
def gprNamesOk (ns : List Text) : Bool :=
  !ns.isEmpty && decide ns.Nodup && ns.all gprNameOk

/-- The constraints R11 and R12 put on a configuration. -/
def Config.wf (c : Config) : Bool :=
  gprNamesOk c.gprNames && decide (1 ≤ c.imemSize) && decide (1 ≤ c.dmemSize)

/-- R13: the configuration constructed from `TOTAL_MEM_SIZE` alone, split evenly. R13 asks for a total of at least 2. -/
def Config.ofTotal (names : List Text) (total : Nat) : Config :=
  { gprNames := names, imemSize := total / 2, dmemSize := total / 2 }

/-- The test configuration of R12 and R13: registers R1 to R4, 16 slots and 16 words (log 1). -/
def Config.test : Config :=
  { gprNames := ["R1".toList, "R2".toList, "R3".toList, "R4".toList], imemSize := 16, dmemSize := 16 }

end Sys2Proof
end

