-- ==== Sys2Proof/Syntax.lean ====
section
/-! DEFINITION. The thirteen opcodes and the instructions made of them (spec 30_encoding R100, R101, R107, R111). -/

namespace Sys2Proof

/-- The ten ALU-class opcodes (R113, R114). The ALU takes no other: its unknown-opcode case is refused by this type (41_alu R181). -/
inductive AluOp where
  | add | sub | mul | div | and | or | not | xor | jp | jpz
deriving DecidableEq, Repr

/-- The thirteen opcodes, in the order of R108. The reserved codes 0xD to 0xF have none (R109). -/
inductive Opcode where
  | add | sub | mul | div | and | or | not | xor | jp | jpz | load | store | move
deriving DecidableEq, Repr

/-- An ALU-class opcode as an opcode. -/
def AluOp.opcode : AluOp → Opcode
  | .add => .add | .sub => .sub | .mul => .mul | .div => .div | .and => .and
  | .or => .or | .not => .not | .xor => .xor | .jp => .jp | .jpz => .jpz

/-- A decoded instruction: its opcode and the two raw operand tokens `tok[1]` and `tok[2]` of R101, the empty text where the line
has no such token (R103). The tokens stay raw because what a token stands for depends on the register names of the core
(R104) and because errors report it as written (60_exceptions R282). -/
inductive Instr where
  | add (dest src : Text)
  | sub (dest src : Text)
  | mul (dest src : Text)
  | div (dest src : Text)
  | and (dest src : Text)
  | or (dest src : Text)
  | not (dest src : Text)
  | xor (dest src : Text)
  | jp (dest src : Text)
  | jpz (dest src : Text)
  | load (dest src : Text)
  | store (dest src : Text)
  | move (dest src : Text)
deriving DecidableEq, Repr

/-- The opcode of an instruction. -/
def Instr.opcode : Instr → Opcode
  | .add _ _ => .add | .sub _ _ => .sub | .mul _ _ => .mul | .div _ _ => .div | .and _ _ => .and
  | .or _ _ => .or | .not _ _ => .not | .xor _ _ => .xor | .jp _ _ => .jp | .jpz _ _ => .jpz
  | .load _ _ => .load | .store _ _ => .store | .move _ _ => .move

/-- The dest token `tok[1]`. -/
def Instr.dest : Instr → Text
  | .add d _ | .sub d _ | .mul d _ | .div d _ | .and d _ | .or d _ | .not d _ | .xor d _ | .jp d _ | .jpz d _
  | .load d _ | .store d _ | .move d _ => d

/-- The src token `tok[2]`. -/
def Instr.src : Instr → Text
  | .add _ s | .sub _ s | .mul _ s | .div _ s | .and _ s | .or _ s | .not _ s | .xor _ s | .jp _ s | .jpz _ s
  | .load _ s | .store _ s | .move _ s => s

/-- The instruction of an opcode and its two tokens. -/
def Opcode.instr : Opcode → Text → Text → Instr
  | .add => .add | .sub => .sub | .mul => .mul | .div => .div | .and => .and | .or => .or | .not => .not
  | .xor => .xor | .jp => .jp | .jpz => .jpz | .load => .load | .store => .store | .move => .move

end Sys2Proof
end

