-- ==== Sys2Proof/Machine/State.lean ====
section
/-! DEFINITION. Everything the spec gives the core to hold, as plain data (spec 10_state R30 to R55), and the reset state (R54). -/

namespace Sys2Proof.Machine

/-- A general-purpose register: its name and its value (10_state R31). -/
structure Register where
  name : Text
  val : Val
deriving DecidableEq, Repr

/-- The PSW: four independent flags (10_state R42). -/
structure Psw where
  z : Flag
  c : Flag
  s : Flag
  o : Flag
deriving DecidableEq, Repr

/-- ALU_EXPR: the most recent ALU call as a triple (10_state R47). -/
structure AluExpr where
  op : AluOp
  op1 : Val
  op2 : Val
deriving DecidableEq, Repr

/-- A control signal vector (30_encoding R111). -/
structure ControlVector where
  fetch : Bool
  decode : Bool
  execute : Bool
  memoryRead : Bool
  memoryWrite : Bool
  registerRead : Bool
  registerWrite : Bool
  aluOperation : Option AluOp
deriving DecidableEq, Repr

/-- One of the two memories (20_memory R70): its size and the cells that hold something, a whole line or a whole integer each.
An address below `size` that is not listed reads as EMPTY in instruction memory, as NONE in data memory, the reset contents of
10_state R54. No byte layout exists (20_memory R79; log 2). -/
structure Memory (α : Type) where
  size : Nat
  cells : List (Nat × α)
deriving DecidableEq, Repr

/-- The two address spaces (20_memory R70). -/
inductive Space where
  | imem
  | dmem
deriving DecidableEq, Repr

/-- The error kinds of 60_exceptions R281, each with what R282 records for it beside the address and the opcode. -/
inductive Cause where
  /-- An instruction or data address out of bounds, or NONE (R283). -/
  | invalidAddress (space : Space) (target : Val)
  /-- A token that names no general-purpose register (R284). -/
  | unknownRegister (token : Text)
  /-- A fetch from an EMPTY slot (R285). -/
  | noInstructionAtAddress
  /-- A first token that is no mnemonic (R286). -/
  | unknownOpcode (token : Text)
  /-- A line of no tokens or of more than three (R287). -/
  | malformedInstruction (text : Text)
  /-- An ALU operand needed for arithmetic is NONE (R288). -/
  | absentOperand
deriving DecidableEq, Repr

/-- The error's context record of 60_exceptions R282. -/
structure ErrorRecord where
  cause : Cause
  /-- The fetch address of the failing cycle. -/
  address : Nat
  /-- The decoded opcode, `none` if the error came before classification. -/
  opcode : Option Opcode
deriving DecidableEq, Repr

/-- The state aggregate of 10_state R30. The register names and the two sizes are the parameters the core was constructed with. -/
structure State where
  /-- GPR, one register for each name of GPR_NAMES (R31). -/
  gpr : List Register
  /-- PC (R35). -/
  pc : Nat
  /-- MAR, the address of the most recent successful fetch (R38). -/
  mar : Option Int
  /-- IR, the most recently fetched line (R39). -/
  ir : Option Text
  /-- MBR, the same line (R40). -/
  mbr : Option Text
  /-- The four flags (R42). -/
  psw : Psw
  /-- ALU_VALUE (R46). -/
  aluValue : Val
  /-- ALU_EXPR (R47). -/
  aluExpr : Option AluExpr
  /-- CSV, the vector of the most recent cycle that reached DISPATCH (R48). -/
  csv : Option ControlVector
  /-- IMEM (R49). -/
  imem : Memory Text
  /-- DMEM (R50). -/
  dmem : Memory Int
  /-- K, the number of lines the loader stored (R51). -/
  k : Nat
  /-- FAULT, the first error that aborted a cycle (R52). -/
  fault : Option ErrorRecord
  /-- The MODEL's own field: the loader has been called since reset, which 70_reset R314 allows once (log 6). -/
  loaded : Bool
deriving DecidableEq, Repr

/-- Why a step gives no next state. -/
inductive Fault where
  /-- Raised by `step` alone, when FAULT holds a record: the core has no step and returns the recorded error (40_cycle R141, R167).
  Safe: the model says nothing about a continuation, which the source leaves to the caller (log 3). -/
  | stuck (recorded : ErrorRecord)
deriving DecidableEq, Repr

/-- Why a request has no meaning. -/
inductive Refusal where
  /-- An instruction without a meaning. Raised by `exec` for an arm not yet written; no arm is left so. Safe: nothing is
  claimed of such an instruction. -/
  | notModelled (mnemonic : String)
  /-- Raised by the host calls `load`, `preloadRegister` and `preloadData`, never by a step: a second load, or a load or preload
  after the first step (70_reset R314, R316; 93 U12). Safe: the spec says nothing about such a call. -/
  | bootOrder
deriving DecidableEq, Repr

/-- The parameters a core was constructed with (00_scope R11). -/
def State.config (s : State) : Config :=
  { gprNames := s.gpr.map Register.name, imemSize := s.imem.size, dmemSize := s.dmem.size }

/-- Reset is the construction of the core from its configuration (70_reset R310), every element at the value of 10_state R54. -/
def State.construct (c : Config) : State :=
  { gpr := c.gprNames.map (fun n => { name := n, val := none })
    pc := 0
    mar := none
    ir := none
    mbr := none
    psw := { z := none, c := none, s := none, o := none }
    aluValue := none
    aluExpr := none
    csv := none
    imem := { size := c.imemSize, cells := [] }
    dmem := { size := c.dmemSize, cells := [] }
    k := 0
    fault := none
    loaded := false }

/-- The machine right after reset, in the spec's test configuration (00_scope R12, R13; log 1). -/
def State.reset : State :=
  State.construct Config.test

end Sys2Proof.Machine
end

