-- ==== Sys2Proof/Machine/Flags.lean ====
section
/-! DEFINITION. Every flag computation (spec 41_alu R183, R184, R186 to R189) and the packed view of the PSW (10_state R43). -/

namespace Sys2Proof.Machine

/-- `CMAX` of R186: `0xFFFFFFFF`. -/
def carryMax : Int :=
  4294967295

/-- `SB(v)` of R186: bit 31 of the infinite two's-complement form. -/
def signBit (v : Int) : Bool :=
  bitAt v 31

/-- Z from a result (R183): 0 for NONE. -/
def zeroOf : Val → Bool
  | some v => v == 0
  | none => false

/-- S from a result (R183): the sign of the exact integer, 0 for NONE. -/
def signOf : Val → Bool
  | some v => decide (v < 0)
  | none => false

/-- C of ADD and MUL: the exact result exceeds the unsigned 32-bit range (R187, R189). -/
def carryOfResult (value : Int) : Bool :=
  decide (carryMax < value)

/-- C of SUB: the signed comparison of the operands (R188). -/
def borrowOf (op1 op2 : Int) : Bool :=
  decide (op1 < op2)

/-- O of ADD (R187): the operands share the sign bit and the result's differs from theirs. -/
def overflowOfAdd (op1 op2 value : Int) : Bool :=
  signBit op1 == signBit op2 && signBit value != signBit op1

/-- O of SUB (R188): the operands' sign bits differ and the result's differs from operand1's. -/
def overflowOfSub (op1 op2 value : Int) : Bool :=
  signBit op1 != signBit op2 && signBit value != signBit op1

/-- A flag that an opcode writes, or keeps where its rule writes none (R184). -/
def writeOrKeep (written : Option Bool) (old : Flag) : Flag :=
  match written with
  | some b => some b
  | none => old

/-- The PSW after an ALU call: Z and S always, C and O where the opcode's rule writes them (R183, R184). -/
def pswAfter (value : Val) (carry overflow : Option Bool) (old : Psw) : Psw :=
  { z := some (zeroOf value)
    c := writeOrKeep carry old.c
    s := some (signOf value)
    o := writeOrKeep overflow old.o }

/-- The packed view of 10_state R43, which exists only while no flag is NONE: bit 0 Z, 1 C, 2 S, 3 O. -/
def packPsw (p : Psw) : Option (BitVec 4) :=
  match p.z, p.c, p.s, p.o with
  | some z, some c, some s, some o => some (BitVec.ofBool o ++ BitVec.ofBool s ++ BitVec.ofBool c ++ BitVec.ofBool z)
  | _, _, _, _ => none

end Sys2Proof.Machine
end

