-- ==== Sys2Proof/Machine/Alu.lean ====
section
/-! DEFINITION. The ALU: the presence check, the value and flags of each of the ten operations, and the call with its side effects
(spec 41_alu R180 to R190, 42_alu R220 to R223, 43_jumps R241, R242). -/

namespace Sys2Proof.Machine

/-- What an ALU operation computes: the value, and C and O where the opcode's rule writes them (`none`: not written, R184). -/
structure AluResult where
  value : Val
  carry : Option Bool
  overflow : Option Bool
deriving DecidableEq, Repr

/-- A result that writes neither C nor O. -/
def plainResult (value : Val) : AluResult :=
  { value := value, carry := none, overflow := none }

/-- `present_ok` of R182. -/
def presentOk : AluOp → Val → Val → Bool
  | .div, op1, op2 => op2.isSome && (op2 == some 0 || op1.isSome)
  | .not, _, op2 => op2.isSome
  | .jp, _, _ => true
  | .jpz, _, _ => true
  | _, op1, op2 => op1.isSome && op2.isSome

/-- A function of two integers on two values. With an operand absent the value is NONE; the presence check of R182 keeps the ALU
from such a call, and the case stands here only because a definition is total (log 8). -/
def onBoth (f : Int → Int → AluResult) : Val → Val → AluResult
  | some a, some b => f a b
  | _, _ => plainResult none

/-- ADD (R187): the exact sum. -/
def aluAdd : Val → Val → AluResult :=
  onBoth (fun a b => { value := some (a + b), carry := some (carryOfResult (a + b)), overflow := some (overflowOfAdd a b (a + b)) })

/-- SUB (R188): the exact difference. -/
def aluSub : Val → Val → AluResult :=
  onBoth (fun a b => { value := some (a - b), carry := some (borrowOf a b), overflow := some (overflowOfSub a b (a - b)) })

/-- MUL (R189): the exact product. O is not written. -/
def aluMul : Val → Val → AluResult :=
  onBoth (fun a b => { value := some (a * b), carry := some (carryOfResult (a * b)), overflow := none })

/-- DIV (R190): 0 for a divisor 0, whatever op1 is, else the floor quotient. C and O are not written. -/
def aluDiv (op1 op2 : Val) : AluResult :=
  if op2 == some 0 then plainResult (some 0)
  else onBoth (fun a b => plainResult (some (floorDiv a b))) op1 op2

/-- AND (42_alu R220). -/
def aluAnd : Val → Val → AluResult :=
  onBoth (fun a b => plainResult (some (bitAnd a b)))

/-- OR (42_alu R221). -/
def aluOr : Val → Val → AluResult :=
  onBoth (fun a b => plainResult (some (bitOr a b)))

/-- NOT (42_alu R222): the complement of op2. op1 is ignored. -/
def aluNot (_op1 op2 : Val) : AluResult :=
  plainResult (op2.map bitNot)

/-- XOR (42_alu R223). -/
def aluXor : Val → Val → AluResult :=
  onBoth (fun a b => plainResult (some (bitXor a b)))

/-- JP (43_jumps R241): op1, possibly NONE. op2 is ignored. -/
def aluJp (op1 _op2 : Val) : AluResult :=
  plainResult op1

/-- JPZ (43_jumps R242): op1 if op2 is the integer 0, else NONE. An absent op2 fails the test. -/
def aluJpz (op1 op2 : Val) : AluResult :=
  plainResult (if op2 == some 0 then op1 else none)

/-- The value and the C and O of an ALU operation. -/
def aluCompute : AluOp → Val → Val → AluResult
  | .add => aluAdd
  | .sub => aluSub
  | .mul => aluMul
  | .div => aluDiv
  | .and => aluAnd
  | .or => aluOr
  | .not => aluNot
  | .xor => aluXor
  | .jp => aluJp
  | .jpz => aluJpz

/-- The side effects of `ALU.execute` (R180): ALU_EXPR and ALU_VALUE (R185), Z and S (R183), C and O (R184). -/
def State.latchAlu (s : State) (f : AluOp) (op1 op2 : Val) (r : AluResult) : State :=
  { s with aluValue := r.value, aluExpr := some { op := f, op1 := op1, op2 := op2 },
           psw := pswAfter r.value r.carry r.overflow s.psw }

end Sys2Proof.Machine
end

