-- ==== Sys2Proof/WellFormed.lean ====
section
/-! DEFINITION. Which instructions a line of text can stand for (spec 30_encoding R101 to R103). Nothing more is asked: a token that
names no register is well formed and fails, if at all, when the instruction runs. -/

namespace Sys2Proof

/-- Well-formed: neither token holds a separator (the grammar of R101), and a line with a src token has a dest token before it (R103:
a missing token is missing from the end). -/
def Instr.wf (i : Instr) : Bool :=
  Machine.hasNoSep i.dest && Machine.hasNoSep i.src && (!i.dest.isEmpty || i.src.isEmpty)

end Sys2Proof
end

