-- ==== Sys2Proof/Decode.lean ====
section
/-! DEFINITION. The tokenizer, the decoder and the encoder of instruction lines (spec 30_encoding R100 to R110, R122), and the bits
the opcode table numbers (R108). -/

namespace Sys2Proof

/-- Why a line decodes to no instruction. -/
inductive DecodeError where
  /-- Zero tokens, or more than three (R103). It holds the line. -/
  | malformed (text : Text)
  /-- The first token is none of the thirteen mnemonics (R109). It holds the token. -/
  | unknownOpcode (token : Text)
deriving DecidableEq, Repr

/-- The thirteen opcodes in the order of R108. -/
def Opcode.all : List Opcode :=
  [.add, .sub, .mul, .div, .and, .or, .not, .xor, .jp, .jpz, .load, .store, .move]

/-- The mnemonic of an opcode (R107). -/
def Opcode.mnemonic : Opcode → Text
  | .add => "ADD".toList
  | .sub => "SUB".toList
  | .mul => "MUL".toList
  | .div => "DIV".toList
  | .and => "AND".toList
  | .or => "OR".toList
  | .not => "NOT".toList
  | .xor => "XOR".toList
  | .jp => "JP".toList
  | .jpz => "JPZ".toList
  | .load => "LOAD".toList
  | .store => "STORE".toList
  | .move => "MOVE".toList

/-- R107: exact, case-sensitive equality with one of the thirteen mnemonics. -/
def opcodeOfMnemonic (t : Text) : Option Opcode :=
  Opcode.all.find? (fun op => op.mnemonic == t)

/-- A token in front of a list of tokens, unless it is empty: empty tokens are never produced (R102). -/
def consToken (t : Text) (ts : List Text) : List Text :=
  if t.isEmpty then ts else t :: ts

/-- The token that the line begins with (empty if it begins with a separator) and the tokens after it. -/
def splitTokens : Text → Text × List Text
  | [] => ([], [])
  | c :: cs =>
    if Machine.isSep c then ([], consToken (splitTokens cs).1 (splitTokens cs).2)
    else (c :: (splitTokens cs).1, (splitTokens cs).2)

/-- The tokenizer of R102: the maximal runs of characters that are no separators. -/
def tokenize (line : Text) : List Text :=
  consToken (splitTokens line).1 (splitTokens line).2

/-- The end of DECODE (40_cycle R145): the opcode by its mnemonic, with the two operand tokens. -/
def classifyTokens (mnemonic dest src : Text) : Except DecodeError Instr :=
  match opcodeOfMnemonic mnemonic with
  | some op => .ok (op.instr dest src)
  | none => .error (.unknownOpcode mnemonic)

/-- The decoder: one to three tokens, missing ones read as the empty text (R103), then the opcode (R107, R109). The count is
checked before the mnemonic (40_cycle R144, R145). -/
def decode (line : Text) : Except DecodeError Instr :=
  match tokenize line with
  | [m] => classifyTokens m [] []
  | [m, d] => classifyTokens m d []
  | [m, d, s] => classifyTokens m d s
  | _ => .error (.malformed line)

/-- A text after a break, or nothing where there is no text. -/
def afterBreak (sep t : Text) : Text :=
  if t.isEmpty then [] else sep ++ t

/-- The encoder: the conventional spelling `MNEMONIC dest, src` of R122, less the tokens that are missing. -/
def encode (i : Instr) : Text :=
  i.opcode.mnemonic ++ (afterBreak " ".toList i.dest ++ afterBreak ", ".toList i.src)

/-- The internal opcode code of R108. -/
def Opcode.code : Opcode → BitVec 4
  | .add => 0x0 | .sub => 0x1 | .mul => 0x2 | .div => 0x3 | .and => 0x4 | .or => 0x5 | .not => 0x6
  | .xor => 0x7 | .jp => 0x8 | .jpz => 0x9 | .load => 0xA | .store => 0xB | .move => 0xC

/-- The opcode of a code. The codes 0xD to 0xF are reserved (R108, R109). -/
def opcodeOfCode (c : BitVec 4) : Option Opcode :=
  Opcode.all.find? (fun op => op.code == c)

/-- The operand tokens of an instruction given by table bits only. The table gives the operands no bits, and zero bits are read as
register number 0 of the test configuration and as the number 0; MOVE's src must be a register (DESIGN CHOICE, log 5). -/
def tableInstr : Opcode → Instr
  | .move => .move "R1".toList "R1".toList
  | op => op.instr "R1".toList "0".toList

/-- The line that the bits of an opcode-table row stand for: the code is bits 3 to 0 (log 5). A reserved code has no line. -/
def tableLine (nbits w : Nat) : Option Text :=
  (opcodeOfCode (BitVec.ofNat 4 (w % 2 ^ nbits))).map (fun op => encode (tableInstr op))

/-- The instruction the decoder reads from the line that the table bits `w` stand for. -/
def decodeTableWord (nbits w : Nat) : Option Instr :=
  (tableLine nbits w).bind (fun line => (decode line).toOption)

end Sys2Proof
end

