-- ==== Sys2Proof/Machine/Control.lean ====
section
/-! DEFINITION. The control-signal generator, the packed vector, and the choice of a path from a vector (spec 30_encoding R111
to R120). -/

namespace Sys2Proof.Machine

/-- A vector with the three cycle-phase fields that R112 gives every opcode, and the rest as given. -/
def phaseVector (memoryRead memoryWrite registerRead registerWrite : Bool) (alu : Option AluOp) : ControlVector :=
  { fetch := true, decode := true, execute := true, memoryRead := memoryRead, memoryWrite := memoryWrite,
    registerRead := registerRead, registerWrite := registerWrite, aluOperation := alu }

/-- The vector of an ALU-class opcode (R113, R114). -/
def aluVector (f : AluOp) : ControlVector :=
  phaseVector false false true true (some f)

/-- `generate` of R112 to R118. -/
def generate : Opcode → ControlVector
  | .add => aluVector .add
  | .sub => aluVector .sub
  | .mul => aluVector .mul
  | .div => aluVector .div
  | .and => aluVector .and
  | .or => aluVector .or
  | .not => aluVector .not
  | .xor => aluVector .xor
  | .jp => aluVector .jp
  | .jpz => aluVector .jpz
  | .load => phaseVector true false false false none
  | .store => phaseVector false true false false none
  | .move => phaseVector false false true true none

/-- The packed vector of R119. -/
def packVector (v : ControlVector) : BitVec 12 :=
  (match v.aluOperation with
    | some f => f.opcode.code ++ BitVec.ofBool true
    | none => (0 : BitVec 4) ++ BitVec.ofBool false)
  ++ BitVec.ofBool v.registerWrite ++ BitVec.ofBool v.registerRead ++ BitVec.ofBool v.memoryWrite
  ++ BitVec.ofBool v.memoryRead ++ BitVec.ofBool v.execute ++ BitVec.ofBool v.decode ++ BitVec.ofBool v.fetch

/-- The four execution paths of 40_cycle R155. -/
inductive Path where
  | alu (f : AluOp)
  | load
  | store
  | move
deriving DecidableEq, Repr

/-- R120: the path, from the vector alone, in the order of its tests. No vector of `generate` falls through. -/
def selectPath (v : ControlVector) : Option Path :=
  match v.aluOperation with
  | some f => some (.alu f)
  | none =>
    if v.memoryRead then some .load
    else if v.memoryWrite then some .store
    else if v.registerWrite then some .move
    else none

end Sys2Proof.Machine
end

