-- ==== Sys2Proof/Machine/Ops.lean ====
section
/-! DEFINITION. The named operations over registers, memory and latches, and taking an error, the one operation every error of the
core goes through (spec 10_state R31 to R52, 20_memory R71 to R76, 40_cycle R163, 60_exceptions R280 to R282). -/

namespace Sys2Proof.Machine

/-- What a step, or a part of one, answers. -/
abbrev Result := Host.Outcome State Fault Refusal

/-! ### The register file -/

/-- `x[n]` of 00_scope R18: the value of the register named `n`, or no answer where no register has that name. -/
def regAt (f : List Register) (n : Text) : Option Val :=
  (f.find? (fun r => r.name == n)).map Register.val

/-- `x[n] <- v`: the register named `n` is overwritten, none is added or removed (10_state R31). -/
def setRegAt (f : List Register) (n : Text) (v : Val) : List Register :=
  f.map (fun r => if r.name == n then { r with val := v } else r)

/-- The register read of a state. -/
def State.reg (s : State) (n : Text) : Option Val :=
  regAt s.gpr n

/-- The register write of a state. -/
def State.setReg (s : State) (n : Text) (v : Val) : State :=
  { s with gpr := setRegAt s.gpr n v }

/-- A register lookup by a token (10_state R33). The error reports `shown`, the token as the line has it. -/
def lookupReg (s : State) (n shown : Text) : Except Cause Val :=
  match s.reg n with
  | some v => .ok v
  | none => .error (.unknownRegister shown)

/-! ### The two memories -/

/-- What the cell at address `a` holds: `none` for EMPTY or NONE, which is what an unlisted address reads as (10_state R54). -/
def Memory.get {α : Type} (m : Memory α) (a : Nat) : Option α :=
  (m.cells.find? (fun c => c.1 == a)).map Prod.snd

/-- Insert a cell before the first cell of a higher address. -/
def insertCell {α : Type} (a : Nat) (x : α) : List (Nat × α) → List (Nat × α)
  | [] => [(a, x)]
  | c :: cs => if a < c.1 then (a, x) :: c :: cs else c :: insertCell a x cs

/-- Write one cell, in canonical form: what is written replaces what was there, and writing `none` leaves no entry. -/
def Memory.put {α : Type} (m : Memory α) (a : Nat) (v : Option α) : Memory α :=
  let others := m.cells.filter (fun c => c.1 != a)
  match v with
  | none => { m with cells := others }
  | some x => { m with cells := insertCell a x others }

/-- The canonical form: addresses strictly rising and below the size. That no entry holds what an unlisted address reads as is
so by the type of an entry. -/
def Memory.wf {α : Type} (m : Memory α) : Bool :=
  decide ((m.cells.map Prod.fst).Pairwise (· < ·)) && m.cells.all (fun c => decide (c.1 < m.size))

/-- The bounds check of 20_memory R75: exactly `0 <= a < size`. An absent address fails it (R73, R74). The answer is the index. -/
def checkAddress (space : Space) (size : Nat) (a : Val) : Except Cause Nat :=
  match a with
  | some i => if 0 ≤ i ∧ i < size then .ok i.toNat else .error (.invalidAddress space a)
  | none => .error (.invalidAddress space a)

/-- `IMemRead` of 20_memory R71: the slot's line, `none` for EMPTY. -/
def imemRead (m : Memory Text) (a : Int) : Except Cause (Option Text) :=
  match checkAddress .imem m.size (some a) with
  | .ok i => .ok (m.get i)
  | .error c => .error c

/-- `IMemWrite` of 20_memory R72. -/
def imemWrite (m : Memory Text) (a : Int) (t : Text) : Except Cause (Memory Text) :=
  match checkAddress .imem m.size (some a) with
  | .ok i => .ok (m.put i (some t))
  | .error c => .error c

/-- `DMemRead` of 20_memory R73. -/
def dmemRead (m : Memory Int) (a : Val) : Except Cause Val :=
  match checkAddress .dmem m.size a with
  | .ok i => .ok (m.get i)
  | .error c => .error c

/-- `DMemWrite` of 20_memory R74. Nothing is written when the check fails. -/
def dmemWrite (m : Memory Int) (a v : Val) : Except Cause (Memory Int) :=
  match checkAddress .dmem m.size a with
  | .ok i => .ok (m.put i v)
  | .error c => .error c

/-! ### Latches -/

/-- What FETCH and DECODE latch of a line read at PC (40_cycle R142, R144): MAR, IR, MBR, and the increment of PC. -/
def State.latchLine (s : State) (line : Text) : State :=
  { s with mar := some s.pc, ir := some line, mbr := some line, pc := s.pc + 1 }

/-- `CSV <- v` (40_cycle R154). -/
def State.latchVector (s : State) (v : ControlVector) : State :=
  { s with csv := some v }

/-- The data memory replaced by one that a write made of it. -/
def State.withDmem (s : State) (m : Memory Int) : State :=
  { s with dmem := m }

/-! ### Errors -/

/-- The fetch address of the cycle, from DECODE on: PC holds it plus 1 (10_state R35; log 7). -/
def State.fetchAddress (s : State) : Nat :=
  s.pc - 1

/-- `FAULT <- E(info)` (40_cycle R168). -/
def State.recordFault (s : State) (e : ErrorRecord) : State :=
  { s with fault := some e }

/-- Raising an error: the cycle ends, everything already written stays, and the error is recorded in FAULT with the fetch
address, the opcode and the cause (40_cycle R163, 60_exceptions R280, R282). Nothing else changes: no mode, mask, vector or stack
exists (60_exceptions R292). There is no return from it (R294); reset alone clears FAULT. -/
def raiseAt (s : State) (address : Nat) (op : Option Opcode) (c : Cause) : Result :=
  .next (s.recordFault { cause := c, address := address, opcode := op })

/-- Raising an error in RESOLVE or DISPATCH, where the opcode is known. -/
def raiseIn (s : State) (op : Opcode) (c : Cause) : Result :=
  raiseAt s s.fetchAddress (some op) c

/-- The six error kinds (60_exceptions R281). -/
inductive ErrorKind where
  | invalidAddress
  | unknownRegister
  | noInstructionAtAddress
  | unknownOpcode
  | malformedInstruction
  | absentOperand
deriving DecidableEq, Repr

/-- The numeric code of an error kind (60_exceptions R281). -/
def errorCode : ErrorKind → Nat
  | .invalidAddress => 1
  | .unknownRegister => 2
  | .noInstructionAtAddress => 3
  | .unknownOpcode => 4
  | .malformedInstruction => 5
  | .absentOperand => 6

/-- The kind of a cause. -/
def causeKind : Cause → ErrorKind
  | .invalidAddress _ _ => .invalidAddress
  | .unknownRegister _ => .unknownRegister
  | .noInstructionAtAddress => .noInstructionAtAddress
  | .unknownOpcode _ => .unknownOpcode
  | .malformedInstruction _ => .malformedInstruction
  | .absentOperand => .absentOperand

/-- The record's `token` field: the offending token of UnknownRegister and UnknownOpcode (60_exceptions R282). -/
def errorToken (e : ErrorRecord) : Option Text :=
  match e.cause with
  | .unknownRegister t => some t
  | .unknownOpcode t => some t
  | _ => none

/-- The record's `space` and `target` fields, for InvalidAddress (60_exceptions R282). -/
def errorTarget (e : ErrorRecord) : Option (Space × Val) :=
  match e.cause with
  | .invalidAddress sp a => some (sp, a)
  | _ => none

/-- The record's `text` field, for MalformedInstruction (60_exceptions R282). -/
def errorText (e : ErrorRecord) : Option Text :=
  match e.cause with
  | .malformedInstruction t => some t
  | _ => none

end Sys2Proof.Machine
end

