-- ==== Sys2Proof/Machine/Operands.lean ====
section
/-! DEFINITION. The addressing-mode resolver: every operand form (spec 30_encoding R104 to R106, 40_cycle R146 to R153). -/

namespace Sys2Proof.Machine

/-- The value of one ASCII digit. -/
def digitValue (c : Char) : Nat :=
  c.toNat - '0'.toNat

/-- The decimal value of a digit string, of unbounded size (30_encoding R106). -/
def decimal (t : Text) : Nat :=
  t.foldl (fun n c => 10 * n + digitValue c) 0

/-- The four lexical classes of a src token (30_encoding R104). -/
inductive SrcClass where
  /-- `*R`. It holds R, the token without its first character. -/
  | indirect (name : Text)
  /-- A digit string. It holds its value. -/
  | immediate (value : Nat)
  /-- The name of a register. -/
  | direct (name : Text)
  /-- Anything else. -/
  | noValue
deriving DecidableEq, Repr

/-- The class of a src token, the first that matches in R104's order. -/
def classifySrc (f : List Register) (t : Text) : SrcClass :=
  if t.head? == some '*' then .indirect t.tail
  else if isDigitString t then .immediate (decimal t)
  else if (regAt f t).isSome then .direct t
  else .noValue

/-- dest resolution: register-direct for every opcode (40_cycle R147). -/
def resolveDest (s : State) (d : Text) : Except Cause Val :=
  lookupReg s d d

/-- `resolveIndirect` of 40_cycle R149: the register first, then the data word at the address it holds. -/
def resolveIndirect (s : State) (name token : Text) : Except Cause Val :=
  match lookupReg s name token with
  | .ok a => dmemRead s.dmem a
  | .error c => .error c

/-- The generic src resolution of 40_cycle R148: indirect R149, immediate R150, direct R151, no value R152. -/
def resolveToken (s : State) (t : Text) : Except Cause Val :=
  match classifySrc s.gpr t with
  | .indirect name => resolveIndirect s name t
  | .immediate n => .ok (some (n : Int))
  | .direct name => lookupReg s name t
  | .noValue => .ok none

/-- src resolution for an opcode: the generic one, but a token that spells a special register is looked up as a name, which 10_state R34
makes an UnknownRegister. MOVE's src meets that look-up in DISPATCH (44_data_transfer R262) and is resolved generically here
(DEDUCED, log 12). -/
def resolveSrc (op : Opcode) (s : State) (t : Text) : Except Cause Val :=
  if op != .move && specialNames.contains t then lookupReg s t t else resolveToken s t

end Sys2Proof.Machine
end

