-- ==== Sys2Proof/Machine/Cycle.lean ====
section
/-! DEFINITION. The phases of a cycle: FETCH, and RESOLVE, DISPATCH and WRITEBACK for a decoded instruction (spec 40_cycle R142 to
R158, R168). -/

namespace Sys2Proof.Machine

/-- FETCH (R142, R143): the line at PC, or the error that leaves everything but FAULT as it was. -/
def fetchLine (s : State) : Except Cause Text :=
  match imemRead s.imem s.pc with
  | .ok (some line) => .ok line
  | .ok none => .error .noInstructionAtAddress
  | .error c => .error c

/-- The cause that DECODE raises for a line that is no instruction (R144, R145). -/
def decodeCause : DecodeError → Cause
  | .malformed t => .malformedInstruction t
  | .unknownOpcode t => .unknownOpcode t

/-- The ALU path of R156: the presence check, the ALU call, and the write of its value to the register `d`. -/
def aluPath (f : AluOp) (d : Text) (op1 op2 : Val) (s : State) : Result :=
  if presentOk f op1 op2 then
    .next ((s.latchAlu f op1 op2 (aluCompute f op1 op2)).setReg d (aluCompute f op1 op2).value)
  else raiseIn s f.opcode .absentOperand

/-- The LOAD path (44_data R260). -/
def loadPath (d : Text) (op2 : Val) (s : State) : Result :=
  .next (s.setReg d op2)

/-- The STORE path (44_data R261): the address is operand2, the datum operand1. -/
def storePath (op : Opcode) (op1 op2 : Val) (s : State) : Result :=
  match dmemWrite s.dmem op2 op1 with
  | .ok m => .next (s.withDmem m)
  | .error c => raiseIn s op c

/-- The MOVE path (44_data R262): src is re-read as a register name. -/
def movePath (op : Opcode) (d src : Text) (s : State) : Result :=
  match lookupReg s src src with
  | .ok v => .next (s.setReg d v)
  | .error c => raiseIn s op c

/-- DISPATCH (R154, R155): the vector is generated and latched, and alone selects the path (30_encoding R120). A vector that selects
none would end the cycle as R168 does; `generate` gives no such vector. -/
def dispatch (op : Opcode) (d src : Text) (op1 op2 : Val) (s : State) : Result :=
  match selectPath (generate op) with
  | some (.alu f) => aluPath f d op1 op2 (s.latchVector (generate op))
  | some .load => loadPath d op2 (s.latchVector (generate op))
  | some .store => storePath op op1 op2 (s.latchVector (generate op))
  | some .move => movePath op d src (s.latchVector (generate op))
  | none => .next (s.latchVector (generate op))

/-- The cycle of a decoded instruction after DECODE: RESOLVE, dest first and src second, both for every opcode (R146), then
DISPATCH and WRITEBACK. -/
def runInstr (op : Opcode) (d src : Text) (s : State) : Result :=
  match resolveDest s d with
  | .error c => raiseIn s op c
  | .ok op1 =>
    match resolveSrc op s src with
    | .error c => raiseIn s op c
    | .ok op2 => dispatch op d src op1 op2 s

end Sys2Proof.Machine
end

