-- ==== Sys2Proof/Machine/Arithmetic.lean ====
section
/-! DEFINITION. The meanings of the arithmetic instructions (spec 41_alu R187 to R190). What each computes is its ALU operation in
Machine/Alu.lean; the cycle around it is the one of every instruction. -/

namespace Sys2Proof.Machine

/-- ADD (R187). -/
def execAdd (d src : Text) (s : State) : Result :=
  runInstr .add d src s

/-- SUB (R188). -/
def execSub (d src : Text) (s : State) : Result :=
  runInstr .sub d src s

/-- MUL (R189). -/
def execMul (d src : Text) (s : State) : Result :=
  runInstr .mul d src s

/-- DIV (R190). -/
def execDiv (d src : Text) (s : State) : Result :=
  runInstr .div d src s

end Sys2Proof.Machine
end

