-- ==== Sys2Proof/Machine/Jumps.lean ====
section
/-! DEFINITION. The meanings of the jump instructions (spec 43_jumps R240 to R242). Neither writes PC. -/

namespace Sys2Proof.Machine

/-- JP (R241). -/
def execJp (d src : Text) (s : State) : Result :=
  runInstr .jp d src s

/-- JPZ (R242). -/
def execJpz (d src : Text) (s : State) : Result :=
  runInstr .jpz d src s

end Sys2Proof.Machine
end

