-- ==== Sys2Proof/Machine/Logic.lean ====
section
/-! DEFINITION. The meanings of the logic instructions (spec 42_alu R220 to R223). -/

namespace Sys2Proof.Machine

/-- AND (R220). -/
def execAnd (d src : Text) (s : State) : Result :=
  runInstr .and d src s

/-- OR (R221). -/
def execOr (d src : Text) (s : State) : Result :=
  runInstr .or d src s

/-- NOT (R222): unary on src. -/
def execNot (d src : Text) (s : State) : Result :=
  runInstr .not d src s

/-- XOR (R223). -/
def execXor (d src : Text) (s : State) : Result :=
  runInstr .xor d src s

end Sys2Proof.Machine
end

