-- ==== Sys2Proof/Machine/Transfer.lean ====
section
/-! DEFINITION. The meanings of the data-transfer instructions (spec 44_data R260 to R262). None calls the ALU or writes a flag. -/

namespace Sys2Proof.Machine

/-- LOAD (R260). -/
def execLoad (d src : Text) (s : State) : Result :=
  runInstr .load d src s

/-- STORE (R261). -/
def execStore (d src : Text) (s : State) : Result :=
  runInstr .store d src s

/-- MOVE (R262). -/
def execMove (d src : Text) (s : State) : Result :=
  runInstr .move d src s

end Sys2Proof.Machine
end

