-- ==== Sys2Proof/Machine/Dispatch.lean ====
section
/-! DEFINITION. What each decoded instruction does: one arm per constructor, in the opcode table's order. -/

namespace Sys2Proof.Machine

def exec (i : Instr) (s : State) : Host.Outcome State Fault Refusal :=
  match i with
  | .add d src => Sys2Proof.Machine.execAdd d src s
  | .sub d src => Sys2Proof.Machine.execSub d src s
  | .mul d src => Sys2Proof.Machine.execMul d src s
  | .div d src => Sys2Proof.Machine.execDiv d src s
  | .and d src => Sys2Proof.Machine.execAnd d src s
  | .or d src => Sys2Proof.Machine.execOr d src s
  | .not d src => Sys2Proof.Machine.execNot d src s
  | .xor d src => Sys2Proof.Machine.execXor d src s
  | .jp d src => Sys2Proof.Machine.execJp d src s
  | .jpz d src => Sys2Proof.Machine.execJpz d src s
  | .load d src => Sys2Proof.Machine.execLoad d src s
  | .store d src => Sys2Proof.Machine.execStore d src s
  | .move d src => Sys2Proof.Machine.execMove d src s

end Sys2Proof.Machine
end

