-- ==== Sys2Proof/Machine/Step.lean ====
section
/-! DEFINITION. One step, one instruction cycle (spec 40_cycle R140, R141, R168), and where the host places an instruction. -/

namespace Sys2Proof.Machine

/-- `step()` of R168. With a fault recorded the core has no step and returns the recorded error (R141, R167; log 3). A FETCH error
changes FAULT alone (R143). From DECODE on the line is latched and PC incremented, whatever follows (R144, R165). -/
def step (s : State) : Host.Outcome State Fault Refusal :=
  match s.fault with
  | some e => .fault (.stuck e)
  | none =>
    match fetchLine s with
    | .error c => raiseAt s s.pc none c
    | .ok line =>
      match decode line with
      | .error e => raiseAt (s.latchLine line) s.pc none (decodeCause e)
      | .ok i => exec i (s.latchLine line)

/-- The state with the line of the table bits `w` in the slot at PC, where FETCH reads next. Nothing else changes; where the bits
have no line or PC no slot, nothing at all. `step` then runs it if no fault is recorded, as after reset (log 5). -/
def State.withFetchWord (s : State) (nbits w : Nat) : State :=
  match tableLine nbits w with
  | none => s
  | some line =>
    match imemWrite s.imem s.pc line with
    | .ok m => { s with imem := m }
    | .error _ => s

end Sys2Proof.Machine
end

