-- ==== Sys2Proof/Machine/Boot.lean ====
section
/-! DEFINITION. What the host may do outside a cycle: load a program, preload, query (spec 70_reset R312 to R316, 60_exceptions R303). -/

namespace Sys2Proof.Machine

/-- What a host call answers. -/
inductive HostReply where
  /-- Done, with the state it leaves. -/
  | ok (s : State)
  /-- The error it raised, with the state it leaves. FAULT is not set (70_reset R313, R316). -/
  | error (c : Cause) (s : State)
  /-- A call outside the spec (70_reset R314). -/
  | refused (r : Refusal)
deriving DecidableEq, Repr

/-- A step has been called since reset: the first one sets MAR, or FAULT if its FETCH fails (40_cycle R142, R143; log 6). -/
def State.started (s : State) : Bool :=
  s.mar.isSome || s.fault.isSome

/-- The loader's loop of 70_reset R312, from address `addr` on: the memory it leaves, and the address after the last line stored or
the error that stopped it. -/
def storeLines (addr : Nat) (lines : List Text) (m : Memory Text) : Memory Text × Except Cause Nat :=
  match lines with
  | [] => (m, .ok addr)
  | line :: rest =>
    if isBlank line then storeLines addr rest m
    else
      match imemWrite m addr line with
      | .ok m' => storeLines (addr + 1) rest m'
      | .error c => (m, .error c)

/-- The program loader (70_reset R312 to R314): `K` is written after the last line, and not where a line finds no slot. -/
def load (lines : List Text) (s : State) : HostReply :=
  if s.loaded || s.started then .refused .bootOrder
  else
    match storeLines 0 lines s.imem with
    | (m, .ok n) => .ok { s with imem := m, k := n, loaded := true }
    | (m, .error c) => .error c { s with imem := m, loaded := true }

/-- `preload_register(n, v)` (70_reset R316). -/
def preloadRegister (n : Text) (v : Val) (s : State) : HostReply :=
  if s.started then .refused .bootOrder
  else
    match lookupReg s n n with
    | .ok _ => .ok (s.setReg n v)
    | .error c => .error c s

/-- `preload_data(a, v)` (70_reset R316). -/
def preloadData (a : Int) (v : Val) (s : State) : HostReply :=
  if s.started then .refused .bootOrder
  else
    match dmemWrite s.dmem (some a) v with
    | .ok m => .ok (s.withDmem m)
    | .error c => .error c s

/-- What the host may read of the core beside single data words (60_exceptions R303): neither IMEM nor K is among it. -/
structure Observation where
  pc : Nat
  mar : Option Int
  ir : Option Text
  mbr : Option Text
  gpr : List Register
  psw : Psw
  aluExpr : Option AluExpr
  aluValue : Val
  csv : Option ControlVector
  fault : Option ErrorRecord
deriving DecidableEq, Repr

/-- The query of 60_exceptions R303. -/
def observe (s : State) : Observation :=
  { pc := s.pc, mar := s.mar, ir := s.ir, mbr := s.mbr, gpr := s.gpr, psw := s.psw, aluExpr := s.aluExpr,
    aluValue := s.aluValue, csv := s.csv, fault := s.fault }

/-- The query of the four flags as one packed view, where it exists (10_state R43). -/
def packedPsw (s : State) : Option (BitVec 4) :=
  packPsw s.psw

/-- The query of one register, by name. -/
def queryRegister (s : State) (n : Text) : Except Cause Val :=
  lookupReg s n n

/-- The query of one data word: bounds-checked as every entry point is (20_memory R76). -/
def queryData (s : State) (a : Int) : Except Cause Val :=
  dmemRead s.dmem (some a)

end Sys2Proof.Machine
end

