-- ==== Sys2Proof/Machine/Run.lean ====
section
/-! DEFINITION. The run-to-completion entry point (spec 40_cycle R160 to R162). -/

namespace Sys2Proof.Machine

/-- The loop of R160, at most `n` times: step while no fault is recorded and PC is below K. -/
def runFor : Nat → State → Result
  | 0, s => .next s
  | n + 1, s =>
    if s.fault.isNone && decide (s.pc < s.k) then
      match step s with
      | .next t => runFor n t
      | .fault e => .fault e
      | .refused r => .refused r
    else .next s

/-- `run()` of R160. Every cycle that records no fault adds 1 to PC, so that K - PC cycles are enough (R161; log 9). What `run()`
returns is FAULT of the state it ends in. -/
def run (s : State) : Result :=
  runFor (s.k - s.pc) s

end Sys2Proof.Machine
end

