-- ==== Sys2Proof/Safety.lean ====
section
/-! DEFINITION. The terms that claims about the machine use: what a safe state is, the invariant, what an instruction's completion and
its abort are. -/

namespace Sys2Proof.Machine

/-- `a` is an address of a space of `size` units: `0 <= a < size` (20_memory R75). -/
def InRange (size : Nat) (a : Val) : Prop :=
  ∃ i : Int, a = some i ∧ 0 ≤ i ∧ i < size

/-- The opcode is one of the ten ALU-class opcodes (00_scope R21). -/
def IsAluOpcode (op : Opcode) : Prop :=
  ∃ f : AluOp, f.opcode = op

/-! ### The invariant -/

/-- MAR, IR, MBR and PC belong together: before the first successful fetch nothing is latched and PC is 0; after it IR and MBR hold
one line and PC is one past MAR (10_state R35, R38 to R40). -/
def LatchesAgree (s : State) : Prop :=
  (s.mar = none ∧ s.ir = none ∧ s.mbr = none ∧ s.pc = 0) ∨
  (∃ (a : Nat) (line : Text), s.mar = some (a : Int) ∧ s.ir = some line ∧ s.mbr = some line ∧ s.pc = a + 1)

/-- The ALU latches and Z and S belong together: before the first ALU call all are NONE; after it ALU_VALUE is the value of the call
that ALU_EXPR names, made on operands that passed the presence check, and Z and S are computed from it (41_alu R182, R183, R185). -/
def AluLatchesAgree (s : State) : Prop :=
  match s.aluExpr with
  | none => s.aluValue = none ∧ s.psw = { z := none, c := none, s := none, o := none }
  | some e => presentOk e.op e.op1 e.op2 = true ∧ s.aluValue = (aluCompute e.op e.op1 e.op2).value ∧
      s.psw.z = some (zeroOf s.aluValue) ∧ s.psw.s = some (signOf s.aluValue)

/-- CSV is NONE or the vector of an opcode (10_state R48). -/
def VectorGenerated (s : State) : Prop :=
  s.csv = none ∨ ∃ op, s.csv = some (generate op)

/-- A recorded error locates its instruction: a FETCH error by the address in PC, any later one by the address in MAR
(40_cycle R164, R165). -/
def FaultLocated (s : State) : Prop :=
  ∀ e, s.fault = some e →
    (e.address = s.pc ∧ e.opcode = none ∧ (e.cause = .noInstructionAtAddress ∨ e.cause = .invalidAddress .imem (some s.pc))) ∨
    s.mar = some (e.address : Int)

/-- What holds at reset and after every step: the memories keep their canonical form, the register names fit 00_scope R12, and the
latches agree with each other. -/
structure Inv (s : State) : Prop where
  imem : s.imem.wf = true
  dmem : s.dmem.wf = true
  names : gprNamesOk (s.gpr.map Register.name) = true
  latches : LatchesAgree s
  alu : AluLatchesAgree s
  vector : VectorGenerated s
  fault : FaultLocated s

/-! ### What an instruction does -/

/-- `t` is `s` with `v` in register `d`: every other register reads as before and the names are the same. -/
structure RegisterWritten (d : Text) (v : Val) (s t : State) : Prop where
  written : t.reg d = some v
  others : ∀ n, n ≠ d → t.reg n = s.reg n
  names : t.gpr.map Register.name = s.gpr.map Register.name

/-- An ALU-class instruction completed: the value is in register `d`, in ALU_VALUE and described by the PSW given, ALU_EXPR and CSV
are latched, and nothing else changed (40_cycle R156, R157). -/
structure AluCompleted (f : AluOp) (d : Text) (op1 op2 value : Val) (psw : Psw) (s t : State) : Prop where
  register : RegisterWritten d value s t
  others : t = { s with gpr := t.gpr, psw := psw, aluValue := value, aluExpr := some { op := f, op1 := op1, op2 := op2 },
                        csv := some (generate f.opcode) }

/-- A transfer into a register completed: the value is in register `d`, CSV is latched, and nothing else changed. -/
structure TransferCompleted (op : Opcode) (d : Text) (value : Val) (s t : State) : Prop where
  register : RegisterWritten d value s t
  others : t = { s with gpr := t.gpr, csv := some (generate op) }

/-- A STORE completed: the word at `a` holds `v`, every other word reads as before, CSV is latched, and nothing else changed. -/
structure StoreCompleted (a : Nat) (v : Val) (s t : State) : Prop where
  written : t.dmem.get a = v
  others : ∀ b, b ≠ a → t.dmem.get b = s.dmem.get b
  rest : t = { s with dmem := t.dmem, csv := some (generate .store) }
  size : t.dmem.size = s.dmem.size

/-- The instruction aborts in RESOLVE with cause `c`: FAULT records it and nothing else changes (40_cycle R164). -/
def AbortsInResolve (i : Instr) (s : State) (c : Cause) : Prop :=
  exec i s = .next { s with fault := some { cause := c, address := s.pc - 1, opcode := some i.opcode } }

/-- The instruction aborts in DISPATCH with cause `c`: CSV holds its vector, FAULT records it and nothing else changes
(40_cycle R164). -/
def AbortsInDispatch (i : Instr) (s : State) (c : Cause) : Prop :=
  exec i s = .next { s with csv := some (generate i.opcode),
                            fault := some { cause := c, address := s.pc - 1, opcode := some i.opcode } }

/-- The errors that operand resolution gives every instruction (40_cycle R147, R149): a dest that is no register; a src `*R` where R is
no register; a src `*R` where R holds no address of data memory. dest comes first (R146). -/
structure OperandErrors (i : Instr) (s : State) : Prop where
  dest : s.reg i.dest = none → AbortsInResolve i s (.unknownRegister i.dest)
  name : ∀ x r, s.reg i.dest = some x → i.src = '*' :: r → s.reg r = none → AbortsInResolve i s (.unknownRegister i.src)
  address : ∀ x r v, s.reg i.dest = some x → i.src = '*' :: r → s.reg r = some v → ¬ InRange s.dmem.size v →
    AbortsInResolve i s (.invalidAddress .dmem v)

/-- How an opcode is written and coded: its mnemonic, its internal code, and its packed control vector (30_encoding R107, R108, R119). -/
structure Encoded (op : Opcode) (mnemonic : Text) (code : BitVec 4) (vector : BitVec 12) : Prop where
  mnemonic : ∀ d src, classifyTokens mnemonic d src = .ok (op.instr d src)
  code : op.code = code
  vector : packVector (generate op) = vector

/-! ### Sequences and views -/

/-- The instruction, run in `s`, is a STORE to address `a`. -/
def StoresTo (a : Nat) (i : Instr) (s : State) : Prop :=
  i.opcode = .store ∧ resolveSrc .store s i.src = .ok (some (a : Int))

/-- The instructions, run one after the other, lead from one state to the other, and none is a STORE to address `a`. -/
def ReachesWithoutStoreTo (a : Nat) : List Instr → State → State → Prop
  | [], s, u => u = s
  | i :: rest, s, u => ¬ StoresTo a i s ∧ ∃ t, exec i s = .next t ∧ ReachesWithoutStoreTo a rest t u

/-- The state without what no computation may depend on: the flags, the ALU latches, CSV, MAR, IR and MBR (10_state R53). -/
def State.forgetObserved (s : State) : State :=
  { s with psw := { z := none, c := none, s := none, o := none }, aluValue := none, aluExpr := none, csv := none, mar := none,
           ir := none, mbr := none }

/-- The slots below K hold lines and the others are EMPTY, as a load leaves them (70_reset R313). -/
def ProgramLoaded (s : State) : Prop :=
  s.k ≤ s.imem.size ∧ ∀ a, (s.imem.get a).isSome = true ↔ a < s.k

end Sys2Proof.Machine
end

