-- ==== Sys2Proof/Certificates/Slice0/Obligations.lean ====
section
/-! DEFINITION. The statements for the provers, from the numbered rules of spec/. A statement about every state is one about every
configuration too, since a state carries its register names and memory sizes. -/

open Sys2Proof Sys2Proof.Machine

/-! ### Reset, the invariant, the step -/

/-- R54: every element of a core just constructed, from whatever configuration; the host may preload every register and data word. -/
def Obligations.ConstructedCoreHasResetValues : Prop :=
  ∀ c : Config,
    (State.construct c).pc = 0 ∧
    (∀ n ∈ c.gprNames, (State.construct c).reg n = some none) ∧
    (∀ n, n ∉ c.gprNames → (State.construct c).reg n = none) ∧
    (State.construct c).mar = none ∧ (State.construct c).ir = none ∧ (State.construct c).mbr = none ∧
    (State.construct c).psw = { z := none, c := none, s := none, o := none } ∧
    (State.construct c).aluValue = none ∧ (State.construct c).aluExpr = none ∧ (State.construct c).csv = none ∧
    (∀ a, (State.construct c).imem.get a = none) ∧ (∀ a, (State.construct c).dmem.get a = none) ∧
    (State.construct c).k = 0 ∧ (State.construct c).fault = none ∧ (State.construct c).config = c ∧
    (∀ n ∈ c.gprNames, ∀ v, ∃ t, preloadRegister n v (State.construct c) = .ok t ∧ t.reg n = some v) ∧
    (∀ a : Nat, a < c.dmemSize → ∀ v, ∃ t, preloadData a v (State.construct c) = .ok t ∧ t.dmem.get a = v)

/-- The invariant holds in a core just constructed. That `State.reset` is the test configuration is the model's choice (log 1). -/
def Obligations.InvariantHoldsAtReset : Prop :=
  (∀ c : Config, gprNamesOk c.gprNames = true → Inv (State.construct c)) ∧ Inv State.reset

/-- Every step keeps the invariant, from every state that meets it. -/
def Obligations.InvariantKeptByEveryStep : Prop :=
  ∀ s t : State, Inv s → step s = .next t → Inv t

/-- R142, R144, R168: a step latches the line at PC, increments PC, and is then the instruction that the line decodes to. -/
def Obligations.StepRunsDecodedInstruction : Prop :=
  ∀ (s : State) (line : Text) (i : Instr), s.fault = none → s.pc < s.imem.size → s.imem.get s.pc = some line →
    decode line = .ok i →
    step s = exec i { s with mar := some s.pc, ir := some line, mbr := some line, pc := s.pc + 1 }

/-- R141, R167: with a fault recorded the core has no step and returns the recorded error, and run-to-completion ends at once. That
the model answers `fault`, with no next state, is log 3. -/
def Obligations.RecordedFaultStopsCore : Prop :=
  ∀ (s : State) (e : ErrorRecord), s.fault = some e → step s = .fault (.stuck e) ∧ run s = .next s

/-- R143: the two ways FETCH fails, each leaving everything but FAULT as it was. -/
def Obligations.FetchFailuresChangeOnlyFault : Prop :=
  ∀ s : State, s.fault = none →
    (¬ s.pc < s.imem.size →
      step s = .next { s with fault := some ⟨.invalidAddress .imem (some s.pc), s.pc, none⟩ }) ∧
    (s.pc < s.imem.size → s.imem.get s.pc = none →
      step s = .next { s with fault := some ⟨.noInstructionAtAddress, s.pc, none⟩ })

/-- R286, R287: the two ways DECODE fails, after the latches and the increment of PC. -/
def Obligations.DecodeFailuresKeepLatches : Prop :=
  ∀ (s : State) (line : Text), s.fault = none → s.pc < s.imem.size → s.imem.get s.pc = some line →
    ((tokenize line = [] ∨ 3 < (tokenize line).length) →
      step s = .next { s with mar := some s.pc, ir := some line, mbr := some line, pc := s.pc + 1,
                              fault := some ⟨.malformedInstruction line, s.pc, none⟩ }) ∧
    (∀ m rest, tokenize line = m :: rest → rest.length ≤ 2 → (∀ op : Opcode, m ≠ op.mnemonic) →
      step s = .next { s with mar := some s.pc, ir := some line, mbr := some line, pc := s.pc + 1,
                              fault := some ⟨.unknownOpcode m, s.pc, none⟩ })

/-- R36: no instruction writes PC; a step adds 1 exactly when FETCH finds a line; past the last slot it raises InvalidAddress. -/
def Obligations.PcChangesOnlyByIncrement : Prop :=
  (∀ (i : Instr) (s t : State), exec i s = .next t → t.pc = s.pc) ∧
  (∀ s t : State, step s = .next t →
    t.pc = if s.pc < s.imem.size ∧ (s.imem.get s.pc).isSome = true then s.pc + 1 else s.pc) ∧
  (∀ s : State, s.fault = none → s.imem.size ≤ s.pc → ∃ t, step s = .next t ∧
    t.fault = some { cause := .invalidAddress .imem (some s.pc), address := s.pc, opcode := none })

/-- The machine refuses nothing and stops nowhere but on a recorded fault: every instruction in every state, and every step of a
core without a fault, has a next state. -/
def Obligations.EveryCycleHasNextState : Prop :=
  (∀ (i : Instr) (s : State), ∃ t, exec i s = .next t) ∧ (∀ s : State, s.fault = none → ∃ t, step s = .next t)

/-- R164: the state an aborted cycle leaves, by the phase that raised the error. -/
def Obligations.AbortedCycleLeavesPhaseState : Prop :=
  ∀ (s t : State) (e : ErrorRecord), s.fault = none → step s = .next t → t.fault = some e →
    e.address = s.pc ∧
    (((e.cause = .noInstructionAtAddress ∨ e.cause = .invalidAddress .imem (some s.pc)) ∧ t = { s with fault := some e }) ∨
     ∃ line, s.imem.get s.pc = some line ∧
      (((e.cause = .malformedInstruction line ∨ (∃ m, e.cause = .unknownOpcode m) ∨ (∃ n, e.cause = .unknownRegister n) ∨
          (∃ v, e.cause = .invalidAddress .dmem v)) ∧
        t = { s with mar := some s.pc, ir := some line, mbr := some line, pc := s.pc + 1, fault := some e }) ∨
       (∃ op, e.opcode = some op ∧
        ((IsAluOpcode op ∧ e.cause = .absentOperand) ∨ (op = .store ∧ ∃ v, e.cause = .invalidAddress .dmem v) ∨
          (op = .move ∧ ∃ n, e.cause = .unknownRegister n)) ∧
        t = { s with mar := some s.pc, ir := some line, mbr := some line, pc := s.pc + 1,
                     csv := some (generate op), fault := some e })))

/-- R44: who writes the flags. Z and S describe ALU_VALUE after an ALU call; C changes only by ADD, SUB and MUL, O only by ADD and SUB. -/
def Obligations.FlagsChangeOnlyByTheirWriters : Prop :=
  ∀ (i : Instr) (s t : State), exec i s = .next t →
    (t.psw = s.psw ∨ (IsAluOpcode i.opcode ∧ t.psw.z = some (zeroOf t.aluValue) ∧ t.psw.s = some (signOf t.aluValue))) ∧
    (t.psw.c ≠ s.psw.c → i.opcode = .add ∨ i.opcode = .sub ∨ i.opcode = .mul) ∧
    (t.psw.o ≠ s.psw.o → i.opcode = .add ∨ i.opcode = .sub)

/-- R38, R39, R40, R45, R53: two cores that differ only in the flags, the ALU latches, CSV, MAR, IR and MBR step to cores that
differ only in these. -/
def Obligations.ObservedLatchesInfluenceNothing : Prop :=
  ∀ s s' t : State, s.forgetObserved = s'.forgetObserved → step s = .next t →
    ∃ t', step s' = .next t' ∧ t.forgetObserved = t'.forgetObserved

/-- R161 (which the spec derives from R160 and R36): every run ends, in a fault or after exactly K - PC cycles, each of which added 1 to PC. -/
def Obligations.RunEndsAtProgramEndOrFault : Prop :=
  ∀ s : State, ∃ n t, run s = .next t ∧ Host.Core.run Sys2Proof.core n s = .next t ∧
    ((t.fault = none ∧ n = s.k - s.pc ∧ t.pc = s.pc + n) ∨ (∃ e, t.fault = some e ∧ n ≤ s.k - s.pc))

/-- R89: what a STORE wrote, a later LOAD through a register that holds the same address reads back, whatever instructions ran in
between, if none of them was a STORE to that address. -/
def Obligations.StoreThenLoadRoundTrip : Prop :=
  ∀ (s : State) (ra src : Text) (v : Val) (a : Nat), s.reg ra = some v → resolveSrc .store s src = .ok (some (a : Int)) →
    a < s.dmem.size →
    ∃ t, exec (.store ra src) s = .next t ∧
      ∀ (between : List Instr) (u : State), ReachesWithoutStoreTo a between t u →
        ∀ (rb rc : Text) (w : Val), u.reg rb = some w → u.reg rc = some (some (a : Int)) →
          ∃ z, exec (.load rb ('*' :: rc)) u = .next z ∧ z.reg rb = some v

/-! ### The instructions: encoding, result, errors -/

/-- R187. -/
def Obligations.AddWritesExactSumAndAllFlags : Prop :=
  Encoded .add "ADD".toList 0x0 0x0E7 ∧
  ∀ (d src : Text) (s : State),
    (∀ a b : Int, s.reg d = some (some a) → resolveSrc .add s src = .ok (some b) →
      ∃ t, exec (.add d src) s = .next t ∧
        AluCompleted .add d (some a) (some b) (some (a + b))
          { z := some (decide (a + b = 0)), c := some (decide (a + b > 4294967295)), s := some (decide (a + b < 0)),
            o := some (bitAt a 31 == bitAt b 31 && bitAt (a + b) 31 != bitAt a 31) } s t) ∧
    (∀ x y, s.reg d = some x → resolveSrc .add s src = .ok y → (x = none ∨ y = none) →
      AbortsInDispatch (.add d src) s .absentOperand) ∧
    OperandErrors (.add d src) s

/-- R188. -/
def Obligations.SubWritesExactDifferenceAndAllFlags : Prop :=
  Encoded .sub "SUB".toList 0x1 0x1E7 ∧
  ∀ (d src : Text) (s : State),
    (∀ a b : Int, s.reg d = some (some a) → resolveSrc .sub s src = .ok (some b) →
      ∃ t, exec (.sub d src) s = .next t ∧
        AluCompleted .sub d (some a) (some b) (some (a - b))
          { z := some (decide (a - b = 0)), c := some (decide (a < b)), s := some (decide (a - b < 0)),
            o := some (bitAt a 31 != bitAt b 31 && bitAt (a - b) 31 != bitAt a 31) } s t) ∧
    (∀ x y, s.reg d = some x → resolveSrc .sub s src = .ok y → (x = none ∨ y = none) →
      AbortsInDispatch (.sub d src) s .absentOperand) ∧
    OperandErrors (.sub d src) s

/-- R189: O keeps its previous value. -/
def Obligations.MulWritesExactProductAndKeepsOverflow : Prop :=
  Encoded .mul "MUL".toList 0x2 0x2E7 ∧
  ∀ (d src : Text) (s : State),
    (∀ a b : Int, s.reg d = some (some a) → resolveSrc .mul s src = .ok (some b) →
      ∃ t, exec (.mul d src) s = .next t ∧
        AluCompleted .mul d (some a) (some b) (some (a * b))
          { z := some (decide (a * b = 0)), c := some (decide (a * b > 4294967295)), s := some (decide (a * b < 0)),
            o := s.psw.o } s t) ∧
    (∀ x y, s.reg d = some x → resolveSrc .mul s src = .ok y → (x = none ∨ y = none) →
      AbortsInDispatch (.mul d src) s .absentOperand) ∧
    OperandErrors (.mul d src) s

/-- R190: floor division, and 0 with Z = 1 for a divisor 0 whatever operand1 is. -/
def Obligations.DivWritesFloorQuotientOrZero : Prop :=
  Encoded .div "DIV".toList 0x3 0x3E7 ∧
  ∀ (d src : Text) (s : State),
    (∀ x, s.reg d = some x → resolveSrc .div s src = .ok (some 0) →
      ∃ t, exec (.div d src) s = .next t ∧
        AluCompleted .div d x (some 0) (some 0) { z := some true, c := s.psw.c, s := some false, o := s.psw.o } s t) ∧
    (∀ a b : Int, b ≠ 0 → s.reg d = some (some a) → resolveSrc .div s src = .ok (some b) →
      ∃ t, exec (.div d src) s = .next t ∧
        AluCompleted .div d (some a) (some b) (some (Int.fdiv a b))
          { z := some (decide (Int.fdiv a b = 0)), c := s.psw.c, s := some (decide (Int.fdiv a b < 0)), o := s.psw.o } s t) ∧
    (∀ x y, s.reg d = some x → resolveSrc .div s src = .ok y → (y = none ∨ (y ≠ some 0 ∧ x = none)) →
      AbortsInDispatch (.div d src) s .absentOperand) ∧
    OperandErrors (.div d src) s

/-- R220. What `bitAnd` is, bit by bit, is stated by BitwiseOperatorsActOnEveryBit. -/
def Obligations.AndWritesBitwiseAnd : Prop :=
  Encoded .and "AND".toList 0x4 0x4E7 ∧
  ∀ (d src : Text) (s : State),
    (∀ a b : Int, s.reg d = some (some a) → resolveSrc .and s src = .ok (some b) →
      ∃ t, exec (.and d src) s = .next t ∧
        AluCompleted .and d (some a) (some b) (some (bitAnd a b))
          { z := some (decide (bitAnd a b = 0)), c := s.psw.c, s := some (decide (bitAnd a b < 0)), o := s.psw.o } s t) ∧
    (∀ x y, s.reg d = some x → resolveSrc .and s src = .ok y → (x = none ∨ y = none) →
      AbortsInDispatch (.and d src) s .absentOperand) ∧
    OperandErrors (.and d src) s

/-- R221. -/
def Obligations.OrWritesBitwiseOr : Prop :=
  Encoded .or "OR".toList 0x5 0x5E7 ∧
  ∀ (d src : Text) (s : State),
    (∀ a b : Int, s.reg d = some (some a) → resolveSrc .or s src = .ok (some b) →
      ∃ t, exec (.or d src) s = .next t ∧
        AluCompleted .or d (some a) (some b) (some (bitOr a b))
          { z := some (decide (bitOr a b = 0)), c := s.psw.c, s := some (decide (bitOr a b < 0)), o := s.psw.o } s t) ∧
    (∀ x y, s.reg d = some x → resolveSrc .or s src = .ok y → (x = none ∨ y = none) →
      AbortsInDispatch (.or d src) s .absentOperand) ∧
    OperandErrors (.or d src) s

/-- R222: operand1 is ignored, and may be NONE. -/
def Obligations.NotWritesComplementOfSrc : Prop :=
  Encoded .not "NOT".toList 0x6 0x6E7 ∧
  ∀ (d src : Text) (s : State),
    (∀ (x : Val) (b : Int), s.reg d = some x → resolveSrc .not s src = .ok (some b) →
      ∃ t, exec (.not d src) s = .next t ∧
        AluCompleted .not d x (some b) (some (-b - 1))
          { z := some (decide (-b - 1 = 0)), c := s.psw.c, s := some (decide (-b - 1 < 0)), o := s.psw.o } s t) ∧
    (∀ x, s.reg d = some x → resolveSrc .not s src = .ok none → AbortsInDispatch (.not d src) s .absentOperand) ∧
    OperandErrors (.not d src) s

/-- R223. -/
def Obligations.XorWritesBitwiseXor : Prop :=
  Encoded .xor "XOR".toList 0x7 0x7E7 ∧
  ∀ (d src : Text) (s : State),
    (∀ a b : Int, s.reg d = some (some a) → resolveSrc .xor s src = .ok (some b) →
      ∃ t, exec (.xor d src) s = .next t ∧
        AluCompleted .xor d (some a) (some b) (some (bitXor a b))
          { z := some (decide (bitXor a b = 0)), c := s.psw.c, s := some (decide (bitXor a b < 0)), o := s.psw.o } s t) ∧
    (∀ x y, s.reg d = some x → resolveSrc .xor s src = .ok y → (x = none ∨ y = none) →
      AbortsInDispatch (.xor d src) s .absentOperand) ∧
    OperandErrors (.xor d src) s

/-- R241: JP rewrites dest with its own value and writes no PC (`AluCompleted` leaves PC as it was). -/
def Obligations.JpWritesDestToItself : Prop :=
  Encoded .jp "JP".toList 0x8 0x8E7 ∧
  ∀ (d src : Text) (s : State),
    (∀ (a : Int) (y : Val), s.reg d = some (some a) → resolveSrc .jp s src = .ok y →
      ∃ t, exec (.jp d src) s = .next t ∧
        AluCompleted .jp d (some a) y (some a)
          { z := some (decide (a = 0)), c := s.psw.c, s := some (decide (a < 0)), o := s.psw.o } s t) ∧
    (∀ y : Val, s.reg d = some none → resolveSrc .jp s src = .ok y →
      ∃ t, exec (.jp d src) s = .next t ∧
        AluCompleted .jp d none y none { z := some false, c := s.psw.c, s := some false, o := s.psw.o } s t) ∧
    OperandErrors (.jp d src) s

/-- R242: JPZ keeps dest where src is 0 and writes NONE to it otherwise; it writes no PC. -/
def Obligations.JpzKeepsDestOrWritesNone : Prop :=
  Encoded .jpz "JPZ".toList 0x9 0x9E7 ∧
  ∀ (d src : Text) (s : State),
    (∀ a : Int, s.reg d = some (some a) → resolveSrc .jpz s src = .ok (some 0) →
      ∃ t, exec (.jpz d src) s = .next t ∧
        AluCompleted .jpz d (some a) (some 0) (some a)
          { z := some (decide (a = 0)), c := s.psw.c, s := some (decide (a < 0)), o := s.psw.o } s t) ∧
    (s.reg d = some none → resolveSrc .jpz s src = .ok (some 0) →
      ∃ t, exec (.jpz d src) s = .next t ∧
        AluCompleted .jpz d none (some 0) none { z := some false, c := s.psw.c, s := some false, o := s.psw.o } s t) ∧
    (∀ x y, s.reg d = some x → resolveSrc .jpz s src = .ok y → y ≠ some 0 →
      ∃ t, exec (.jpz d src) s = .next t ∧
        AluCompleted .jpz d x y none { z := some false, c := s.psw.c, s := some false, o := s.psw.o } s t) ∧
    OperandErrors (.jpz d src) s

/-- R260: what src resolves to, NONE too, is put in dest; no flag or ALU latch changes. -/
def Obligations.LoadWritesResolvedSrc : Prop :=
  Encoded .load "LOAD".toList 0xA 0x00F ∧
  ∀ (d src : Text) (s : State),
    (∀ x y, s.reg d = some x → resolveSrc .load s src = .ok y →
      ∃ t, exec (.load d src) s = .next t ∧ TransferCompleted .load d y s t) ∧
    OperandErrors (.load d src) s

/-- R261: the datum is operand1, the address operand2; no register or flag changes. -/
def Obligations.StoreWritesDestAtResolvedSrc : Prop :=
  Encoded .store "STORE".toList 0xB 0x017 ∧
  ∀ (d src : Text) (s : State),
    (∀ (x : Val) (a : Nat), s.reg d = some x → resolveSrc .store s src = .ok (some (a : Int)) → a < s.dmem.size →
      ∃ t, exec (.store d src) s = .next t ∧ StoreCompleted a x s t) ∧
    (∀ x y, s.reg d = some x → resolveSrc .store s src = .ok y → ¬ InRange s.dmem.size y →
      AbortsInDispatch (.store d src) s (.invalidAddress .dmem y)) ∧
    OperandErrors (.store d src) s

/-- R262: src is re-read as a register name after its generic resolution, whose value is not used. -/
def Obligations.MoveCopiesRegisterNamedBySrc : Prop :=
  Encoded .move "MOVE".toList 0xC 0x067 ∧
  ∀ (d src : Text) (s : State),
    (∀ x y v, s.reg d = some x → resolveSrc .move s src = .ok y → s.reg src = some v →
      ∃ t, exec (.move d src) s = .next t ∧ TransferCompleted .move d v s t) ∧
    (∀ x y, s.reg d = some x → resolveSrc .move s src = .ok y → s.reg src = none →
      AbortsInDispatch (.move d src) s (.unknownRegister src)) ∧
    OperandErrors (.move d src) s

/-! ### The frames, whatever next state an instruction gives -/

/-- R157, R164: an ALU-class instruction, completed or aborted, leaves every register but dest, every data word, the instruction
memory, PC, MAR, IR, MBR and K unchanged, and C and O unless it is one of their writers. -/
def Obligations.AluClassFrame : Prop :=
  ∀ (i : Instr) (s t : State), IsAluOpcode i.opcode → exec i s = .next t →
    (∀ n, n ≠ i.dest → t.reg n = s.reg n) ∧ (∀ a, t.dmem.get a = s.dmem.get a) ∧
    t.config = s.config ∧ t.imem = s.imem ∧ t.mar = s.mar ∧ t.ir = s.ir ∧ t.mbr = s.mbr ∧ t.k = s.k ∧ t.loaded = s.loaded ∧
    (i.opcode ≠ .add → i.opcode ≠ .sub → i.opcode ≠ .mul → t.psw.c = s.psw.c) ∧
    (i.opcode ≠ .add → i.opcode ≠ .sub → t.psw.o = s.psw.o)

/-- R157, R164: LOAD and MOVE leave every register but dest, every data word, every flag and both ALU latches unchanged. -/
def Obligations.LoadMoveFrame : Prop :=
  ∀ (i : Instr) (s t : State), i.opcode = .load ∨ i.opcode = .move → exec i s = .next t →
    (∀ n, n ≠ i.dest → t.reg n = s.reg n) ∧ (∀ a, t.dmem.get a = s.dmem.get a) ∧ t.psw = s.psw ∧
    t.aluValue = s.aluValue ∧ t.aluExpr = s.aluExpr ∧
    t.config = s.config ∧ t.imem = s.imem ∧ t.mar = s.mar ∧ t.ir = s.ir ∧ t.mbr = s.mbr ∧ t.k = s.k ∧ t.loaded = s.loaded

/-- R157, R164: STORE leaves every register, every flag and both ALU latches unchanged, and every data word but the one at the
address that src resolves to. -/
def Obligations.StoreFrame : Prop :=
  ∀ (i : Instr) (s t : State), i.opcode = .store → exec i s = .next t →
    (∀ n, t.reg n = s.reg n) ∧ t.psw = s.psw ∧ t.aluValue = s.aluValue ∧ t.aluExpr = s.aluExpr ∧
    t.config = s.config ∧ t.imem = s.imem ∧ t.mar = s.mar ∧ t.ir = s.ir ∧ t.mbr = s.mbr ∧ t.k = s.k ∧ t.loaded = s.loaded ∧
    (∀ a : Nat, resolveSrc .store s i.src = .ok (some (a : Int)) → ∀ b, b ≠ a → t.dmem.get b = s.dmem.get b) ∧
    ((∀ a : Nat, resolveSrc .store s i.src ≠ .ok (some (a : Int))) → ∀ b, t.dmem.get b = s.dmem.get b)

/-- R77, R87: a step never changes instruction memory, K, the register names or the memory sizes, and changes data memory only where
the line at PC is a STORE. -/
def Obligations.OnlyStoreChangesMemory : Prop :=
  ∀ s t : State, step s = .next t →
    t.imem = s.imem ∧ t.k = s.k ∧ t.config = s.config ∧
    (t.dmem ≠ s.dmem → ∃ line d src, s.imem.get s.pc = some line ∧ decode line = .ok (.store d src))

/-! ### Operands and errors -/

/-- R149, R150, R151: the classes of src that have a value, in the order of R148, and the two errors of the first; and R152, under MOVE
for every other token, under another opcode for every other but the four names of R34, whose case SpecialRegistersCannotBeNamed
states (log 12). -/
def Obligations.SrcResolvesByFirstMatchingClass : Prop :=
  ∀ (op : Opcode) (s : State) (t : Text),
    (∀ (r : Text) (a : Nat), t = '*' :: r → s.reg r = some (some (a : Int)) → a < s.dmem.size →
      resolveSrc op s t = .ok (s.dmem.get a)) ∧
    (∀ r, t = '*' :: r → s.reg r = none → resolveSrc op s t = .error (.unknownRegister t)) ∧
    (∀ r v, t = '*' :: r → s.reg r = some v → ¬ InRange s.dmem.size v →
      resolveSrc op s t = .error (.invalidAddress .dmem v)) ∧
    (isDigitString t = true → resolveSrc op s t = .ok (some (decimal t : Int))) ∧
    (∀ v, t.head? ≠ some '*' → isDigitString t = false → s.reg t = some v → resolveSrc op s t = .ok v) ∧
    (t.head? ≠ some '*' → isDigitString t = false → op = .move ∨ t ∉ specialNames → s.reg t = none →
      resolveSrc op s t = .ok none)

/-- R106: the value of a digit string is the sum of its digits times powers of ten; leading zeros are ignored; `-5` is none. -/
def Obligations.ImmediateIsDecimalValue : Prop :=
  (∀ (op : Opcode) (s : State) (t : Text), isDigitString t = true →
    resolveSrc op s t =
      .ok (some (((List.range t.length).map
        (fun i => ((t.getD i '0').toNat - 48) * 10 ^ (t.length - 1 - i))).sum : Nat))) ∧
  (∀ t : Text, decimal ('0' :: t) = decimal t) ∧
  (∀ s : State, s.reg "-5".toList = none → (∀ op, resolveSrc op s "-5".toList = .ok none) ∧
    ∀ i : Instr, i.dest = "-5".toList → AbortsInResolve i s (.unknownRegister "-5".toList))

/-- R12, R104: with register names as R12 asks, no name is of another class, so that a src that names a register is its value. -/
def Obligations.RegisterNamesAreNoOtherClass : Prop :=
  ∀ (s : State) (n : Text) (v : Val), gprNamesOk (s.gpr.map Register.name) = true → s.reg n = some v →
    n ≠ [] ∧ n.head? ≠ some '*' ∧ isDigitString n = false ∧ hasNoSep n = true ∧ ∀ op, resolveSrc op s n = .ok v

/-- R34: no operand reaches PC, MAR, IR or MBR: as dest, as src and behind `*` in src each is an UnknownRegister, for every opcode. A
plain src so spelled raises it in DISPATCH under MOVE (R262); that it raises it under the other opcodes, and in RESOLVE, where R152 gives
any other token NONE, is the model's reading (log 12). -/
def Obligations.SpecialRegistersCannotBeNamed : Prop :=
  ∀ (s : State) (n : Text), gprNamesOk (s.gpr.map Register.name) = true →
    (n = "PC".toList ∨ n = "MAR".toList ∨ n = "IR".toList ∨ n = "MBR".toList) →
    (∀ i : Instr, i.dest = n → AbortsInResolve i s (.unknownRegister n)) ∧
    (∀ (i : Instr) (x : Val), s.reg i.dest = some x → i.src = n →
      if i.opcode = .move then AbortsInDispatch i s (.unknownRegister n) else AbortsInResolve i s (.unknownRegister n)) ∧
    (∀ (i : Instr) (x : Val), s.reg i.dest = some x → i.src = '*' :: n → AbortsInResolve i s (.unknownRegister ('*' :: n)))

/-- R146: dest is resolved first, for every opcode, and its failure prevents src resolution; a failure of src prevents DISPATCH. -/
def Obligations.DestResolvesBeforeSrcBeforeDispatch : Prop :=
  ∀ (i : Instr) (s : State),
    (s.reg i.dest = none → AbortsInResolve i s (.unknownRegister i.dest)) ∧
    (∀ x c, s.reg i.dest = some x → resolveSrc i.opcode s i.src = .error c → AbortsInResolve i s c)

/-- R288: exactly when an ALU-class instruction whose operands resolve raises AbsentOperand. -/
def Obligations.AbsentOperandExactlyWhenNeeded : Prop :=
  ∀ (f : AluOp) (d src : Text) (s : State) (x y : Val), s.fault = none → s.reg d = some x → resolveSrc f.opcode s src = .ok y →
    (AbortsInDispatch (f.opcode.instr d src) s .absentOperand ↔
      match f with
      | .add | .sub | .mul | .and | .or | .xor => x = none ∨ y = none
      | .div => y = none ∨ (y ≠ some 0 ∧ x = none)
      | .not => y = none
      | .jp | .jpz => False)

/-- R291: the errors an opcode can raise once it is decoded. That a plain src that spells a special register raises one is the model's
reading of R34 (log 12). -/
def Obligations.ErrorsEachOpcodeCanRaise : Prop :=
  ∀ (i : Instr) (s t : State) (e : ErrorRecord), s.fault = none → exec i s = .next t → t.fault = some e →
    e.opcode = some i.opcode ∧
    ((∃ v, e.cause = .invalidAddress .dmem v ∧ ((∃ r, i.src = '*' :: r) ∨ i.opcode = .store)) ∨
     (∃ n, e.cause = .unknownRegister n ∧ (n = i.dest ∨ n = i.src) ∧ (n = i.dest ∨ (∃ r, n = '*' :: r) ∨ n ∈ specialNames ∨ i.opcode = .move)) ∨
     (e.cause = .absentOperand ∧ IsAluOpcode i.opcode ∧ i.opcode ≠ .jp ∧ i.opcode ≠ .jpz))

/-- R71 to R75: each access passes the bounds check `0 <= a < size` or raises InvalidAddress and does nothing; a write is read back
there and nowhere else. -/
def Obligations.MemoryAccessesAreBoundsChecked : Prop :=
  (∀ (m : Memory Text) (a : Int),
    (∀ i : Nat, a = i → i < m.size → imemRead m a = .ok (m.get i) ∧
      ∀ line, ∃ m', imemWrite m a line = .ok m' ∧ m'.size = m.size ∧ m'.get i = some line ∧
        ∀ j, j ≠ i → m'.get j = m.get j) ∧
    (¬ InRange m.size (some a) → imemRead m a = .error (.invalidAddress .imem (some a)) ∧
      ∀ line, imemWrite m a line = .error (.invalidAddress .imem (some a)))) ∧
  (∀ (m : Memory Int) (a : Val),
    (∀ i : Nat, a = some (i : Int) → i < m.size → dmemRead m a = .ok (m.get i) ∧
      ∀ v, ∃ m', dmemWrite m a v = .ok m' ∧ m'.size = m.size ∧ m'.get i = v ∧ ∀ j, j ≠ i → m'.get j = m.get j) ∧
    (¬ InRange m.size a → dmemRead m a = .error (.invalidAddress .dmem a) ∧
      ∀ v, dmemWrite m a v = .error (.invalidAddress .dmem a)))

/-- R281, R282: the codes of the error kinds, and the fields of the record. How the record holds them is the model's choice (log 14). -/
def Obligations.ErrorRecordsCarryCodeAndContext : Prop :=
  ([.invalidAddress, .unknownRegister, .noInstructionAtAddress, .unknownOpcode, .malformedInstruction, .absentOperand].map
    errorCode = [1, 2, 3, 4, 5, 6]) ∧
  ∀ (a : Nat) (op : Option Opcode) (sp : Space) (v : Val) (t : Text),
    (causeKind (.invalidAddress sp v) = .invalidAddress ∧
      errorTarget { cause := .invalidAddress sp v, address := a, opcode := op } = some (sp, v)) ∧
    (causeKind (.unknownRegister t) = .unknownRegister ∧
      errorToken { cause := .unknownRegister t, address := a, opcode := op } = some t) ∧
    causeKind .noInstructionAtAddress = .noInstructionAtAddress ∧
    (causeKind (.unknownOpcode t) = .unknownOpcode ∧
      errorToken { cause := .unknownOpcode t, address := a, opcode := op } = some t) ∧
    (causeKind (.malformedInstruction t) = .malformedInstruction ∧
      errorText { cause := .malformedInstruction t, address := a, opcode := op } = some t) ∧
    causeKind .absentOperand = .absentOperand

/-! ### Decoder, encoder, control signals -/

/-- R102: the separators, and the tokens of any line laid out as the grammar of R101 has it; a token is never empty and holds no
separator. -/
def Obligations.TokenizerFollowsGrammar : Prop :=
  (∀ c : Char, isSep c = true ↔ c ∈ [',', ' ', '\t', '\r', '\n', '\x0b', '\x0c']) ∧
  (∀ (lead : Text) (parts : List (Text × Text)), lead.all isSep = true →
    (∀ p ∈ parts, p.1 ≠ [] ∧ hasNoSep p.1 = true ∧ p.2.all isSep = true) → (∀ p ∈ parts.dropLast, p.2 ≠ []) →
    tokenize (lead ++ parts.flatMap (fun p => p.1 ++ p.2)) = parts.map Prod.fst) ∧
  (∀ (line t : Text), t ∈ tokenize line → t ≠ [] ∧ hasNoSep t = true)

/-- R103: one to three tokens, the missing ones read as the empty text; none or more than three are malformed. With register names
as R12 asks, an empty dest is no register and an empty src resolves to NONE. -/
def Obligations.TokenCountDecidesDecoding : Prop :=
  (∀ line : Text,
    ((tokenize line = [] ∨ 3 < (tokenize line).length) → decode line = .error (.malformed line)) ∧
    (∀ op : Opcode, tokenize line = [op.mnemonic] → decode line = .ok (op.instr [] [])) ∧
    (∀ (op : Opcode) (d : Text), tokenize line = [op.mnemonic, d] → decode line = .ok (op.instr d [])) ∧
    (∀ (op : Opcode) (d src : Text), tokenize line = [op.mnemonic, d, src] → decode line = .ok (op.instr d src))) ∧
  (∀ s : State, gprNamesOk (s.gpr.map Register.name) = true → s.reg [] = none ∧ (∀ op, resolveSrc op s [] = .ok none) ∧
    ∀ i : Instr, i.dest = [] → AbortsInResolve i s (.unknownRegister []))

/-- R107: a token is recognised exactly if it is one of the thirteen mnemonics, letter for letter. -/
def Obligations.MnemonicsRecognisedExactly : Prop :=
  (∀ (t : Text) (op : Opcode), opcodeOfMnemonic t = some op ↔ t = op.mnemonic) ∧
  Opcode.all.map Opcode.mnemonic =
    ["ADD".toList, "SUB".toList, "MUL".toList, "DIV".toList, "AND".toList, "OR".toList, "NOT".toList, "XOR".toList, "JP".toList,
     "JPZ".toList, "LOAD".toList, "STORE".toList, "MOVE".toList] ∧
  ∀ op : Opcode, op ∈ Opcode.all

/-- Decoding what the encoder writes gives the instruction back, for every well-formed instruction. -/
def Obligations.DecodeOfEncodeIsIdentity : Prop :=
  ∀ i : Instr, i.wf = true → decode (encode i) = .ok i

/-- Every line that decodes, decodes to a well-formed instruction and has the tokens of its conventional spelling (R122). -/
def Obligations.DecodedLinesAreWellFormed : Prop :=
  ∀ (line : Text) (i : Instr), decode line = .ok i → i.wf = true ∧ tokenize (encode i) = tokenize line

/-- A few lines of the spec decode to the instructions they are (95_test_vectors 2.7, sections 1 and 3). -/
def Obligations.SampleLinesDecode : Prop :=
  decode "ADD R1, R2".toList = .ok (.add "R1".toList "R2".toList) ∧
  decode "  ADD\tR1 ,, R2  ".toList = .ok (.add "R1".toList "R2".toList) ∧
  decode "JP R1".toList = .ok (.jp "R1".toList []) ∧
  decode "NOT".toList = .ok (.not [] []) ∧
  decode "LOAD R2, *R3".toList = .ok (.load "R2".toList "*R3".toList) ∧
  decode "STORE R1, 4".toList = .ok (.store "R1".toList "4".toList) ∧
  decode ",,,".toList = .error (.malformed ",,,".toList) ∧
  decode "ADD R1 R2 R3".toList = .error (.malformed "ADD R1 R2 R3".toList) ∧
  decode "add R1, R2".toList = .error (.unknownOpcode "add".toList)

/-- R112, R119, R120: the vectors, their packed form and the path each selects. -/
def Obligations.ControlVectorsPackAndSelectPath : Prop :=
  (∀ op, (generate op).fetch = true ∧ (generate op).decode = true ∧ (generate op).execute = true) ∧
  (∀ v : ControlVector,
    (packVector v).getLsbD 0 = v.fetch ∧ (packVector v).getLsbD 1 = v.decode ∧ (packVector v).getLsbD 2 = v.execute ∧
    (packVector v).getLsbD 3 = v.memoryRead ∧ (packVector v).getLsbD 4 = v.memoryWrite ∧
    (packVector v).getLsbD 5 = v.registerRead ∧ (packVector v).getLsbD 6 = v.registerWrite ∧
    (packVector v).getLsbD 7 = v.aluOperation.isSome ∧
    (packVector v).extractLsb' 8 4 = (v.aluOperation.map (fun f => f.opcode.code)).getD 0) ∧
  Opcode.all.map (fun op => packVector (generate op)) =
    [0x0E7, 0x1E7, 0x2E7, 0x3E7, 0x4E7, 0x5E7, 0x6E7, 0x7E7, 0x8E7, 0x9E7, 0x00F, 0x017, 0x067] ∧
  (∀ f : AluOp, selectPath (generate f.opcode) = some (.alu f)) ∧
  selectPath (generate .load) = some .load ∧ selectPath (generate .store) = some .store ∧
  selectPath (generate .move) = some .move

/-- The bits of an opcode-table row name its instruction, and the reserved codes none (R108). The operand tokens are the model's choice
(log 5). -/
def Obligations.TableCodesNameInstructions : Prop :=
  (∀ op : Opcode, (decodeTableWord 8 op.code.toNat).map Instr.opcode = some op) ∧
  decodeTableWord 8 0xD = none ∧ decodeTableWord 8 0xE = none ∧ decodeTableWord 8 0xF = none

/-! ### Integers -/

/-- R16, R17: the bitwise operators act on every bit of the infinite two's-complement strings. -/
def Obligations.BitwiseOperatorsActOnEveryBit : Prop :=
  ∀ (a b : Int) (i : Nat),
    bitAt (bitAnd a b) i = (bitAt a i && bitAt b i) ∧
    bitAt (bitOr a b) i = (bitAt a i || bitAt b i) ∧
    bitAt (bitXor a b) i = (bitAt a i ^^ bitAt b i) ∧
    bitAt (bitNot b) i = !bitAt b i

/-- R224: the sign of a logic result follows from the operands' signs; Z is 1 exactly when the result is 0, for NOT exactly when its
operand is -1. -/
def Obligations.LogicResultSigns : Prop :=
  ∀ a b : Int,
    (bitAnd a b < 0 ↔ a < 0 ∧ b < 0) ∧ (bitOr a b < 0 ↔ a < 0 ∨ b < 0) ∧
    (bitXor a b < 0 ↔ ¬ (a < 0 ↔ b < 0)) ∧ (bitNot b < 0 ↔ 0 ≤ b) ∧
    (zeroOf (some a) = true ↔ a = 0) ∧ (signOf (some a) = true ↔ a < 0) ∧ (zeroOf (some (bitNot b)) = true ↔ b = -1)

/-- R17, R191: the quotient is the floor of the exact quotient, whatever the signs. -/
def Obligations.QuotientRoundsTowardMinusInfinity : Prop :=
  ∀ a b : Int,
    (0 < b → b * floorDiv a b ≤ a ∧ a < b * (floorDiv a b + 1)) ∧
    (b < 0 → a ≤ b * floorDiv a b ∧ b * (floorDiv a b + 1) < a)

/-- R186: CMAX, the sign bit, and that it depends only on the low 32 bits. -/
def Obligations.SignBitDependsOnLowBits : Prop :=
  carryMax = 0xFFFFFFFF ∧
  ∀ v : Int, signBit v = bitAt v 31 ∧ signBit v = signBit (v % 2 ^ 32) ∧ signBit v = signBit (bitSlice v 31 0) ∧
    (carryOfResult v = true ↔ v > carryMax)

/-- R192, points 1 and 2: where the flags agree with a 32-bit two's-complement ALU. -/
def Obligations.FlagsAgreeWith32BitAlu : Prop :=
  (∀ x y : BitVec 32,
    overflowOfAdd x.toInt y.toInt (x.toInt + y.toInt) = BitVec.saddOverflow x y ∧
    overflowOfSub x.toInt y.toInt (x.toInt - y.toInt) = BitVec.ssubOverflow x y ∧
    BitVec.ofInt 32 (x.toInt + y.toInt) = x + y ∧ BitVec.ofInt 32 (x.toInt - y.toInt) = x - y) ∧
  (∀ x y : BitVec 32,
    carryOfResult ((x.toNat : Int) + (y.toNat : Int)) = BitVec.uaddOverflow x y ∧
    borrowOf (x.toNat : Int) (y.toNat : Int) = BitVec.usubOverflow x y)

/-! ### The host's calls -/

/-- R312, R313: the loader stores the lines that are not blank at slots 0, 1, … and sets K; where they do not fit, it stops with
InvalidAddress, K as before and FAULT not set. It writes nothing else (`loaded` is the model's own, log 6). -/
def Obligations.LoaderStoresNonBlankLines : Prop :=
  ∀ (s : State) (lines kept : List Text), s.loaded = false → s.started = false →
    kept = lines.filter (fun l => !isBlank l) →
    (kept.length ≤ s.imem.size → ∃ t, load lines s = .ok t ∧
      t = { s with imem := t.imem, k := kept.length, loaded := true } ∧ t.imem.size = s.imem.size ∧
      (∀ i, i < kept.length → t.imem.get i = kept[i]?) ∧ (∀ i, kept.length ≤ i → t.imem.get i = s.imem.get i)) ∧
    (s.imem.size < kept.length → ∃ t, load lines s = .error (.invalidAddress .imem (some (s.imem.size : Int))) t ∧
      t = { s with imem := t.imem, loaded := true } ∧ t.imem.size = s.imem.size ∧
      (∀ i, i < s.imem.size → t.imem.get i = kept[i]?))

/-- R314: a second load, or a load after the first step, is refused; so is a preload after the first step (R316). That a load which ends
in an error counts as the one load, and how the core knows of the load and of the step, is the model's choice (log 6). -/
def Obligations.LoaderIsCalledOnceBeforeFirstStep : Prop :=
  (∀ (lines : List Text) (s : State), s.loaded = true ∨ s.started = true → load lines s = .refused .bootOrder) ∧
  (∀ (lines : List Text) (s t : State), (load lines s = .ok t ∨ ∃ c, load lines s = .error c t) → t.loaded = true) ∧
  (∀ s t : State, step s = .next t → t.started = true) ∧
  (∀ (s : State) (n : Text) (a : Int) (v : Val), s.started = true →
    preloadRegister n v s = .refused .bootOrder ∧ preloadData a v s = .refused .bootOrder)

/-- R316: a preload writes one register or one data word and nothing else, or raises its error and sets no FAULT. -/
def Obligations.PreloadWritesOneRegisterOrWord : Prop :=
  ∀ (s : State) (v : Val), s.started = false →
    (∀ n w, s.reg n = some w → ∃ t, preloadRegister n v s = .ok t ∧ RegisterWritten n v s t ∧ t = { s with gpr := t.gpr }) ∧
    (∀ n, s.reg n = none → preloadRegister n v s = .error (.unknownRegister n) s) ∧
    (∀ a : Nat, a < s.dmem.size → ∃ t, preloadData a v s = .ok t ∧ t.dmem.get a = v ∧
      (∀ b, b ≠ a → t.dmem.get b = s.dmem.get b) ∧ t.dmem.size = s.dmem.size ∧ t = { s with dmem := t.dmem }) ∧
    (∀ a : Int, ¬ InRange s.dmem.size (some a) → preloadData a v s = .error (.invalidAddress .dmem (some a)) s)

/-- R285: after a load, NoInstructionAtAddress is raised exactly by a step past the program, and never by run-to-completion. -/
def Obligations.NoInstructionExactlyPastProgram : Prop :=
  (∀ (c : Config) (lines : List Text) (t : State), load lines (State.construct c) = .ok t → ProgramLoaded t) ∧
  (∀ s : State, ProgramLoaded s → s.fault = none →
    ((∃ t e, step s = .next t ∧ t.fault = some e ∧ e.cause = .noInstructionAtAddress) ↔ s.k ≤ s.pc ∧ s.pc < s.imem.size)) ∧
  (∀ (s t : State) (e : ErrorRecord), ProgramLoaded s → s.fault = none → run s = .next t → t.fault = some e →
    e.cause ≠ .noInstructionAtAddress)

/-- R43: the packed view of the flags, which exists only while none is NONE. -/
def Obligations.PackedPswExistsWithoutNone : Prop :=
  (∀ (s : State) (z c n o : Bool), s.psw = { z := some z, c := some c, s := some n, o := some o } →
    ∃ w, packedPsw s = some w ∧ w.getLsbD 0 = z ∧ w.getLsbD 1 = c ∧ w.getLsbD 2 = n ∧ w.getLsbD 3 = o) ∧
  (∀ s : State, s.psw.z = none ∨ s.psw.c = none ∨ s.psw.s = none ∨ s.psw.o = none → packedPsw s = none)

/-- R76, R303: what the host's queries answer: a register by name, a data word by its address, bounds-checked, and the elements of
the query's list. That a query by an unknown name answers UnknownRegister is the model's choice (log 13). -/
def Obligations.HostQueriesAnswerFromState : Prop :=
  (∀ (s : State) (n : Text) (v : Val), s.reg n = some v → queryRegister s n = .ok v) ∧
  (∀ (s : State) (n : Text), s.reg n = none → queryRegister s n = .error (.unknownRegister n)) ∧
  (∀ (s : State) (a : Nat), a < s.dmem.size → queryData s a = .ok (s.dmem.get a)) ∧
  (∀ (s : State) (a : Int), ¬ InRange s.dmem.size (some a) → queryData s a = .error (.invalidAddress .dmem (some a))) ∧
  (∀ s : State, (observe s).pc = s.pc ∧ (observe s).mar = s.mar ∧ (observe s).ir = s.ir ∧ (observe s).mbr = s.mbr ∧
    (observe s).gpr = s.gpr ∧ (observe s).psw = s.psw ∧ (observe s).aluExpr = s.aluExpr ∧ (observe s).aluValue = s.aluValue ∧
    (observe s).csv = s.csv ∧ (observe s).fault = s.fault)
end

