-- ==== Sys2Proof/Laws/Memory.lean ====
section
/-! SUPPORT. What the memory operations do, and that each keeps the canonical form. -/

namespace Sys2Proof.Machine

variable {α : Type}

/-- A list that has no cell of the address finds the inserted one. -/
theorem find_insertCell_same {a : Nat} {x : α} {cs : List (Nat × α)} (h : ∀ c ∈ cs, c.1 ≠ a) :
    (insertCell a x cs).find? (fun c => c.1 == a) = some (a, x) := by
  induction cs with
  | nil => simp [insertCell]
  | cons c cs ih =>
    have h1 : (c.1 == a) = false := by simpa using h c (by simp)
    have h2 := ih fun d hd => h d (by simp [hd])
    by_cases hlt : a < c.1 <;> simp [insertCell, hlt, h1, h2]

/-- At any other address it finds what it found before. -/
theorem find_insertCell_other {a b : Nat} {x : α} {cs : List (Nat × α)} (h : a ≠ b) :
    (insertCell a x cs).find? (fun c => c.1 == b) = cs.find? (fun c => c.1 == b) := by
  induction cs with
  | nil => simp [insertCell, h]
  | cons c cs ih => by_cases hlt : a < c.1 <;> simp [insertCell, hlt, h, List.find?_cons, ih]

@[simp] theorem Memory.put_size (m : Memory α) (a : Nat) (v : Option α) : (m.put a v).size = m.size := by
  cases v <;> rfl

theorem find_others (cs : List (Nat × α)) (a b : Nat) :
    (cs.filter (fun c => c.1 != a)).find? (fun c => c.1 == b) =
      if a = b then none else cs.find? (fun c => c.1 == b) := by
  induction cs with
  | nil => simp
  | cons c cs ih =>
    by_cases hc : c.1 = a <;> by_cases hb : a = b <;> by_cases hcb : c.1 = b <;>
      simp_all

/-- What a write leaves at every address: what was written there, and elsewhere what was there before. -/
theorem Memory.get_put (m : Memory α) (a b : Nat) (v : Option α) :
    (m.put a v).get b = if b = a then v else m.get b := by
  have ho := find_others m.cells a b
  cases v with
  | none =>
    by_cases h : b = a
    · subst h; simp [Memory.get, Memory.put]
    · simp only [Memory.get, Memory.put, ho, if_neg (Ne.symm h), if_neg h]
  | some x =>
    have hne : ∀ c ∈ m.cells.filter (fun c => c.1 != a), c.1 ≠ a := by
      intro c hc
      simpa using (List.mem_filter.mp hc).2
    by_cases h : b = a
    · subst h
      simp only [Memory.get, Memory.put]
      rw [find_insertCell_same hne]
      simp
    · simp only [Memory.get, Memory.put]
      rw [find_insertCell_other (Ne.symm h), ho, if_neg (Ne.symm h), if_neg h]

theorem Memory.get_put_same (m : Memory α) (a : Nat) (v : Option α) : (m.put a v).get a = v := by
  simp [Memory.get_put]

theorem Memory.get_put_other {m : Memory α} {a b : Nat} {v : Option α} (h : b ≠ a) :
    (m.put a v).get b = m.get b := by
  simp [Memory.get_put, h]

theorem mem_insertCell {a : Nat} {x : α} {cs : List (Nat × α)} {c : Nat × α} :
    c ∈ insertCell a x cs ↔ c = (a, x) ∨ c ∈ cs := by
  induction cs with
  | nil => simp [insertCell]
  | cons d cs ih =>
    by_cases h : a < d.1
    · simp [insertCell, h]
    · simp only [insertCell, if_neg h, List.mem_cons, ih]
      tauto

theorem insertCell_rising {a : Nat} {x : α} {cs : List (Nat × α)} (h : (cs.map Prod.fst).Pairwise (· < ·))
    (hne : ∀ c ∈ cs, c.1 ≠ a) : ((insertCell a x cs).map Prod.fst).Pairwise (· < ·) := by
  induction cs with
  | nil => simp [insertCell]
  | cons d cs ih =>
    simp only [List.map_cons, List.pairwise_cons, List.mem_map, forall_exists_index, and_imp,
      forall_apply_eq_imp_iff₂] at h
    have hd : d.1 ≠ a := hne d (by simp)
    by_cases hlt : a < d.1
    · simp only [insertCell, if_pos hlt, List.map_cons, List.pairwise_cons, List.mem_cons, List.mem_map]
      refine ⟨?_, fun b hb => ?_, h.2⟩
      · rintro b (rfl | ⟨c, hc, rfl⟩)
        · exact hlt
        · exact lt_trans hlt (h.1 c hc)
      · obtain ⟨c, hc, rfl⟩ := hb
        exact h.1 c hc
    · simp only [insertCell, if_neg hlt, List.map_cons, List.pairwise_cons, List.mem_map]
      refine ⟨fun b hb => ?_, ih h.2 fun c hc => hne c (by simp [hc])⟩
      obtain ⟨c, hc, rfl⟩ := hb
      rcases mem_insertCell.mp hc with rfl | hc
      · exact lt_of_le_of_ne (not_lt.mp hlt) hd
      · exact h.1 c hc

/-- The canonical form in plain words. -/
theorem Memory.wf_iff (m : Memory α) :
    m.wf = true ↔ (m.cells.map Prod.fst).Pairwise (· < ·) ∧ ∀ c ∈ m.cells, c.1 < m.size := by
  simp [Memory.wf]

/-- Every write below the size keeps the canonical form. -/
theorem Memory.put_wf {m : Memory α} {a : Nat} {v : Option α} (h : m.wf = true) (ha : a < m.size) :
    (m.put a v).wf = true := by
  rw [Memory.wf_iff] at h ⊢
  have hsub : ∀ c ∈ m.cells.filter (fun c => c.1 != a), c.1 < m.size := fun c hc => h.2 c (List.mem_filter.mp hc).1
  have hne : ∀ c ∈ m.cells.filter (fun c => c.1 != a), c.1 ≠ a := by
    intro c hc
    simpa using (List.mem_filter.mp hc).2
  have hpw : ((m.cells.filter (fun c => c.1 != a)).map Prod.fst).Pairwise (· < ·) :=
    h.1.sublist ((List.filter_sublist).map _)
  cases v with
  | none => exact ⟨hpw, hsub⟩
  | some x =>
    refine ⟨insertCell_rising hpw hne, fun c hc => ?_⟩
    rcases mem_insertCell.mp hc with rfl | hc
    · exact ha
    · exact hsub c hc

/-- An empty memory of any size has the canonical form: the two memories after reset are such. -/
theorem Memory.empty_wf (size : Nat) : Memory.wf ({ size := size, cells := [] } : Memory α) = true := by
  simp [Memory.wf]

/-! ### The bounds check and the accesses behind it -/

/-- The check passes exactly for an integer from 0 to below the size, and answers it (spec 20_memory R75). -/
theorem checkAddress_ok {sp : Space} {size : Nat} {a : Val} {i : Nat} :
    checkAddress sp size a = .ok i ↔ a = some (i : Int) ∧ i < size := by
  unfold checkAddress
  cases a with
  | none => simp
  | some x =>
    by_cases h : 0 ≤ x ∧ x < size
    · simp only [if_pos h, Except.ok.injEq, Option.some.injEq]
      omega
    · simp only [if_neg h, reduceCtorEq, Option.some.injEq, false_iff]
      omega

/-- The check fails with the space and the address, exactly for the others. -/
theorem checkAddress_error {sp : Space} {size : Nat} {a : Val} {c : Cause} :
    checkAddress sp size a = .error c ↔ c = .invalidAddress sp a ∧ ¬ ∃ i : Nat, a = some (i : Int) ∧ i < size := by
  unfold checkAddress
  cases a with
  | none => simp [eq_comm]
  | some x =>
    by_cases h : 0 ≤ x ∧ x < size
    · have hx : ∃ i : Nat, x = (i : Int) ∧ i < size := ⟨x.toNat, by omega, by omega⟩
      simp [h, hx]
    · have hx : ¬ ∃ i : Nat, x = (i : Int) ∧ i < size := by rintro ⟨i, rfl, hi⟩; omega
      simp [h, hx, eq_comm]

/-- `DMemRead` answers the word at an address in range. -/
theorem dmemRead_ok {m : Memory Int} {a v : Val} :
    dmemRead m a = .ok v ↔ ∃ i : Nat, a = some (i : Int) ∧ i < m.size ∧ v = m.get i := by
  unfold dmemRead
  cases h : checkAddress .dmem m.size a with
  | ok i =>
    obtain ⟨rfl, hi⟩ := checkAddress_ok.mp h
    constructor
    · rintro ⟨⟩; exact ⟨i, rfl, hi, rfl⟩
    · rintro ⟨j, hj, _, rfl⟩; simp only [Option.some.injEq, Nat.cast_inj] at hj; rw [hj]
  | error c =>
    have := (checkAddress_error.mp h).2
    simp only [reduceCtorEq, false_iff]
    rintro ⟨i, h1, h2, _⟩; exact this ⟨i, h1, h2⟩

/-- `DMemRead` raises InvalidAddress for every other address. -/
theorem dmemRead_error {m : Memory Int} {a : Val} {c : Cause} :
    dmemRead m a = .error c ↔ c = .invalidAddress .dmem a ∧ ¬ ∃ i : Nat, a = some (i : Int) ∧ i < m.size := by
  unfold dmemRead
  cases h : checkAddress .dmem m.size a with
  | ok i => simpa using fun _ => ⟨i, checkAddress_ok.mp h⟩
  | error d => rw [← checkAddress_error, h]; exact Iff.of_eq (by simp)

/-- `DMemWrite` writes one word at an address in range. -/
theorem dmemWrite_ok {m m' : Memory Int} {a v : Val} :
    dmemWrite m a v = .ok m' ↔ ∃ i : Nat, a = some (i : Int) ∧ i < m.size ∧ m' = m.put i v := by
  unfold dmemWrite
  cases h : checkAddress .dmem m.size a with
  | ok i =>
    obtain ⟨rfl, hi⟩ := checkAddress_ok.mp h
    constructor
    · rintro ⟨⟩; exact ⟨i, rfl, hi, rfl⟩
    · rintro ⟨j, hj, _, rfl⟩; simp only [Option.some.injEq, Nat.cast_inj] at hj; rw [hj]
  | error c =>
    have := (checkAddress_error.mp h).2
    simp only [reduceCtorEq, false_iff]
    rintro ⟨i, h1, h2, _⟩; exact this ⟨i, h1, h2⟩

/-- `DMemWrite` raises InvalidAddress for every other address. -/
theorem dmemWrite_error {m : Memory Int} {a v : Val} {c : Cause} :
    dmemWrite m a v = .error c ↔ c = .invalidAddress .dmem a ∧ ¬ ∃ i : Nat, a = some (i : Int) ∧ i < m.size := by
  unfold dmemWrite
  cases h : checkAddress .dmem m.size a with
  | ok i => simpa using fun _ => ⟨i, checkAddress_ok.mp h⟩
  | error d => rw [← checkAddress_error, h]; exact Iff.of_eq (by simp)

/-- `IMemRead` answers the slot at an address in range. -/
theorem imemRead_ok {m : Memory Text} {a : Int} {t : Option Text} :
    imemRead m a = .ok t ↔ ∃ i : Nat, a = i ∧ i < m.size ∧ t = m.get i := by
  unfold imemRead
  cases h : checkAddress .imem m.size (some a) with
  | ok i =>
    obtain ⟨ha, hi⟩ := checkAddress_ok.mp h
    simp only [Option.some.injEq] at ha
    constructor
    · rintro ⟨⟩; exact ⟨i, ha, hi, rfl⟩
    · rintro ⟨j, hj, _, rfl⟩; have : i = j := by omega
      rw [this]
  | error c =>
    have := (checkAddress_error.mp h).2
    simp only [reduceCtorEq, false_iff]
    rintro ⟨i, h1, h2, _⟩; exact this ⟨i, by rw [h1], h2⟩

/-- `IMemRead` raises InvalidAddress for every other address. -/
theorem imemRead_error {m : Memory Text} {a : Int} {c : Cause} :
    imemRead m a = .error c ↔ c = .invalidAddress .imem (some a) ∧ ¬ ∃ i : Nat, a = i ∧ i < m.size := by
  have he : (¬ ∃ i : Nat, a = i ∧ i < m.size) ↔ ¬ ∃ i : Nat, (some a : Val) = some (i : Int) ∧ i < m.size := by simp
  unfold imemRead
  cases h : checkAddress .imem m.size (some a) with
  | ok i => rw [he]; simpa using fun _ => ⟨i, by simpa using checkAddress_ok.mp h⟩
  | error d => rw [he, ← checkAddress_error, h]; exact Iff.of_eq (by simp)

/-- `IMemWrite` writes one slot at an address in range. -/
theorem imemWrite_ok {m m' : Memory Text} {a : Int} {t : Text} :
    imemWrite m a t = .ok m' ↔ ∃ i : Nat, a = i ∧ i < m.size ∧ m' = m.put i (some t) := by
  unfold imemWrite
  cases h : checkAddress .imem m.size (some a) with
  | ok i =>
    obtain ⟨ha, hi⟩ := checkAddress_ok.mp h
    simp only [Option.some.injEq] at ha
    constructor
    · rintro ⟨⟩; exact ⟨i, ha, hi, rfl⟩
    · rintro ⟨j, hj, _, rfl⟩; have : i = j := by omega
      rw [this]
  | error c =>
    have := (checkAddress_error.mp h).2
    simp only [reduceCtorEq, false_iff]
    rintro ⟨i, h1, h2, _⟩; exact this ⟨i, by rw [h1], h2⟩

/-- `DMemWrite` keeps the canonical form. -/
theorem dmemWrite_wf {m m' : Memory Int} {a v : Val} (h : m.wf = true) (hw : dmemWrite m a v = .ok m') : m'.wf = true := by
  obtain ⟨i, _, hi, rfl⟩ := dmemWrite_ok.mp hw
  exact Memory.put_wf h hi

/-- `IMemWrite` keeps the canonical form. -/
theorem imemWrite_wf {m m' : Memory Text} {a : Int} {t : Text} (h : m.wf = true) (hw : imemWrite m a t = .ok m') :
    m'.wf = true := by
  obtain ⟨i, _, hi, rfl⟩ := imemWrite_ok.mp hw
  exact Memory.put_wf h hi

/-- The memories after reset have the canonical form. -/
theorem construct_memories_wf (c : Config) :
    (State.construct c).imem.wf = true ∧ (State.construct c).dmem.wf = true :=
  ⟨Memory.empty_wf _, Memory.empty_wf _⟩

end Sys2Proof.Machine
end

