-- ==== Sys2Proof/Laws/State.lean ====
section
/-! SUPPORT. What each named update of State does to each field. -/

namespace Sys2Proof.Machine

section setReg
variable (s : State) (n : Text) (v : Val)

@[simp] theorem State.setReg_gpr : (s.setReg n v).gpr = setRegAt s.gpr n v := rfl
@[simp] theorem State.setReg_pc : (s.setReg n v).pc = s.pc := rfl
@[simp] theorem State.setReg_mar : (s.setReg n v).mar = s.mar := rfl
@[simp] theorem State.setReg_ir : (s.setReg n v).ir = s.ir := rfl
@[simp] theorem State.setReg_mbr : (s.setReg n v).mbr = s.mbr := rfl
@[simp] theorem State.setReg_psw : (s.setReg n v).psw = s.psw := rfl
@[simp] theorem State.setReg_aluValue : (s.setReg n v).aluValue = s.aluValue := rfl
@[simp] theorem State.setReg_aluExpr : (s.setReg n v).aluExpr = s.aluExpr := rfl
@[simp] theorem State.setReg_csv : (s.setReg n v).csv = s.csv := rfl
@[simp] theorem State.setReg_imem : (s.setReg n v).imem = s.imem := rfl
@[simp] theorem State.setReg_dmem : (s.setReg n v).dmem = s.dmem := rfl
@[simp] theorem State.setReg_k : (s.setReg n v).k = s.k := rfl
@[simp] theorem State.setReg_fault : (s.setReg n v).fault = s.fault := rfl
@[simp] theorem State.setReg_loaded : (s.setReg n v).loaded = s.loaded := rfl

end setReg

section latchLine
variable (s : State) (line : Text)

@[simp] theorem State.latchLine_gpr : (s.latchLine line).gpr = s.gpr := rfl
@[simp] theorem State.latchLine_pc : (s.latchLine line).pc = s.pc + 1 := rfl
@[simp] theorem State.latchLine_mar : (s.latchLine line).mar = some (s.pc : Int) := rfl
@[simp] theorem State.latchLine_ir : (s.latchLine line).ir = some line := rfl
@[simp] theorem State.latchLine_mbr : (s.latchLine line).mbr = some line := rfl
@[simp] theorem State.latchLine_psw : (s.latchLine line).psw = s.psw := rfl
@[simp] theorem State.latchLine_aluValue : (s.latchLine line).aluValue = s.aluValue := rfl
@[simp] theorem State.latchLine_aluExpr : (s.latchLine line).aluExpr = s.aluExpr := rfl
@[simp] theorem State.latchLine_csv : (s.latchLine line).csv = s.csv := rfl
@[simp] theorem State.latchLine_imem : (s.latchLine line).imem = s.imem := rfl
@[simp] theorem State.latchLine_dmem : (s.latchLine line).dmem = s.dmem := rfl
@[simp] theorem State.latchLine_k : (s.latchLine line).k = s.k := rfl
@[simp] theorem State.latchLine_fault : (s.latchLine line).fault = s.fault := rfl
@[simp] theorem State.latchLine_loaded : (s.latchLine line).loaded = s.loaded := rfl

end latchLine

section latchVector
variable (s : State) (v : ControlVector)

@[simp] theorem State.latchVector_gpr : (s.latchVector v).gpr = s.gpr := rfl
@[simp] theorem State.latchVector_pc : (s.latchVector v).pc = s.pc := rfl
@[simp] theorem State.latchVector_mar : (s.latchVector v).mar = s.mar := rfl
@[simp] theorem State.latchVector_ir : (s.latchVector v).ir = s.ir := rfl
@[simp] theorem State.latchVector_mbr : (s.latchVector v).mbr = s.mbr := rfl
@[simp] theorem State.latchVector_psw : (s.latchVector v).psw = s.psw := rfl
@[simp] theorem State.latchVector_aluValue : (s.latchVector v).aluValue = s.aluValue := rfl
@[simp] theorem State.latchVector_aluExpr : (s.latchVector v).aluExpr = s.aluExpr := rfl
@[simp] theorem State.latchVector_csv : (s.latchVector v).csv = some v := rfl
@[simp] theorem State.latchVector_imem : (s.latchVector v).imem = s.imem := rfl
@[simp] theorem State.latchVector_dmem : (s.latchVector v).dmem = s.dmem := rfl
@[simp] theorem State.latchVector_k : (s.latchVector v).k = s.k := rfl
@[simp] theorem State.latchVector_fault : (s.latchVector v).fault = s.fault := rfl
@[simp] theorem State.latchVector_loaded : (s.latchVector v).loaded = s.loaded := rfl

end latchVector

section withDmem
variable (s : State) (m : Memory Int)

@[simp] theorem State.withDmem_gpr : (s.withDmem m).gpr = s.gpr := rfl
@[simp] theorem State.withDmem_pc : (s.withDmem m).pc = s.pc := rfl
@[simp] theorem State.withDmem_mar : (s.withDmem m).mar = s.mar := rfl
@[simp] theorem State.withDmem_ir : (s.withDmem m).ir = s.ir := rfl
@[simp] theorem State.withDmem_mbr : (s.withDmem m).mbr = s.mbr := rfl
@[simp] theorem State.withDmem_psw : (s.withDmem m).psw = s.psw := rfl
@[simp] theorem State.withDmem_aluValue : (s.withDmem m).aluValue = s.aluValue := rfl
@[simp] theorem State.withDmem_aluExpr : (s.withDmem m).aluExpr = s.aluExpr := rfl
@[simp] theorem State.withDmem_csv : (s.withDmem m).csv = s.csv := rfl
@[simp] theorem State.withDmem_imem : (s.withDmem m).imem = s.imem := rfl
@[simp] theorem State.withDmem_dmem : (s.withDmem m).dmem = m := rfl
@[simp] theorem State.withDmem_k : (s.withDmem m).k = s.k := rfl
@[simp] theorem State.withDmem_fault : (s.withDmem m).fault = s.fault := rfl
@[simp] theorem State.withDmem_loaded : (s.withDmem m).loaded = s.loaded := rfl

end withDmem

section recordFault
variable (s : State) (e : ErrorRecord)

@[simp] theorem State.recordFault_gpr : (s.recordFault e).gpr = s.gpr := rfl
@[simp] theorem State.recordFault_pc : (s.recordFault e).pc = s.pc := rfl
@[simp] theorem State.recordFault_mar : (s.recordFault e).mar = s.mar := rfl
@[simp] theorem State.recordFault_ir : (s.recordFault e).ir = s.ir := rfl
@[simp] theorem State.recordFault_mbr : (s.recordFault e).mbr = s.mbr := rfl
@[simp] theorem State.recordFault_psw : (s.recordFault e).psw = s.psw := rfl
@[simp] theorem State.recordFault_aluValue : (s.recordFault e).aluValue = s.aluValue := rfl
@[simp] theorem State.recordFault_aluExpr : (s.recordFault e).aluExpr = s.aluExpr := rfl
@[simp] theorem State.recordFault_csv : (s.recordFault e).csv = s.csv := rfl
@[simp] theorem State.recordFault_imem : (s.recordFault e).imem = s.imem := rfl
@[simp] theorem State.recordFault_dmem : (s.recordFault e).dmem = s.dmem := rfl
@[simp] theorem State.recordFault_k : (s.recordFault e).k = s.k := rfl
@[simp] theorem State.recordFault_fault : (s.recordFault e).fault = some e := rfl
@[simp] theorem State.recordFault_loaded : (s.recordFault e).loaded = s.loaded := rfl

end recordFault

section latchAlu
variable (s : State) (f : AluOp) (x y : Val) (r : AluResult)

@[simp] theorem State.latchAlu_gpr : (s.latchAlu f x y r).gpr = s.gpr := rfl
@[simp] theorem State.latchAlu_pc : (s.latchAlu f x y r).pc = s.pc := rfl
@[simp] theorem State.latchAlu_mar : (s.latchAlu f x y r).mar = s.mar := rfl
@[simp] theorem State.latchAlu_ir : (s.latchAlu f x y r).ir = s.ir := rfl
@[simp] theorem State.latchAlu_mbr : (s.latchAlu f x y r).mbr = s.mbr := rfl
@[simp] theorem State.latchAlu_psw : (s.latchAlu f x y r).psw = pswAfter r.value r.carry r.overflow s.psw := rfl
@[simp] theorem State.latchAlu_aluValue : (s.latchAlu f x y r).aluValue = r.value := rfl
@[simp] theorem State.latchAlu_aluExpr : (s.latchAlu f x y r).aluExpr = some { op := f, op1 := x, op2 := y } := rfl
@[simp] theorem State.latchAlu_csv : (s.latchAlu f x y r).csv = s.csv := rfl
@[simp] theorem State.latchAlu_imem : (s.latchAlu f x y r).imem = s.imem := rfl
@[simp] theorem State.latchAlu_dmem : (s.latchAlu f x y r).dmem = s.dmem := rfl
@[simp] theorem State.latchAlu_k : (s.latchAlu f x y r).k = s.k := rfl
@[simp] theorem State.latchAlu_fault : (s.latchAlu f x y r).fault = s.fault := rfl
@[simp] theorem State.latchAlu_loaded : (s.latchAlu f x y r).loaded = s.loaded := rfl

end latchAlu

end Sys2Proof.Machine
end

