-- ==== Sys2Proof/Laws/Registers.lean ====
section
/-! SUPPORT. What register reads, writes and lookups do. -/

namespace Sys2Proof.Machine

@[simp] theorem setRegAt_names (f : List Register) (n : Text) (v : Val) :
    (setRegAt f n v).map Register.name = f.map Register.name := by
  simp only [setRegAt, List.map_map]
  refine List.map_congr_left fun r _ => ?_
  by_cases h : r.name = n <;> simp [h]

theorem regAt_cons (r : Register) (f : List Register) (n : Text) :
    regAt (r :: f) n = if r.name = n then some r.val else regAt f n := by
  by_cases h : r.name = n <;> simp [regAt, h]

@[simp] theorem regAt_nil (n : Text) : regAt [] n = none := rfl

theorem setRegAt_cons (r : Register) (f : List Register) (n : Text) (v : Val) :
    setRegAt (r :: f) n v = (if r.name = n then { r with val := v } else r) :: setRegAt f n v := by
  by_cases h : r.name = n <;> simp [setRegAt, h]

/-- A write is read back wherever the register exists. -/
theorem regAt_setRegAt (f : List Register) (n m : Text) (v : Val) :
    regAt (setRegAt f n v) m = if m = n then (regAt f m).map (fun _ => v) else regAt f m := by
  induction f with
  | nil => simp [setRegAt]
  | cons r f ih =>
    rw [setRegAt_cons, regAt_cons, regAt_cons, ih]
    by_cases hm : m = n <;> by_cases hr : r.name = n <;> by_cases hrm : r.name = m <;> simp_all

theorem regAt_setRegAt_other {f : List Register} {n m : Text} {v : Val} (h : m ≠ n) :
    regAt (setRegAt f n v) m = regAt f m := by
  simp [regAt_setRegAt, h]

theorem regAt_setRegAt_same {f : List Register} {n : Text} {v w : Val} (h : regAt f n = some w) :
    regAt (setRegAt f n v) n = some v := by
  simp [regAt_setRegAt, h]

/-- A register exists exactly for each name of the register file (spec 10_state R33). -/
theorem regAt_eq_none_iff (f : List Register) (n : Text) : regAt f n = none ↔ n ∉ f.map Register.name := by
  induction f with
  | nil => simp
  | cons r f ih =>
    rw [regAt_cons]
    by_cases h : r.name = n
    · simp [h]
    · simp [h, ih, Ne.symm h]

theorem lookupReg_ok {s : State} {n shown : Text} {v : Val} : lookupReg s n shown = .ok v ↔ s.reg n = some v := by
  unfold lookupReg; cases s.reg n <;> simp

theorem lookupReg_error {s : State} {n shown : Text} {c : Cause} :
    lookupReg s n shown = .error c ↔ s.reg n = none ∧ c = .unknownRegister shown := by
  unfold lookupReg; cases s.reg n <;> simp [eq_comm]

theorem resolveDest_ok {s : State} {d : Text} {v : Val} : resolveDest s d = .ok v ↔ s.reg d = some v :=
  lookupReg_ok

theorem resolveDest_error {s : State} {d : Text} {c : Cause} :
    resolveDest s d = .error c ↔ s.reg d = none ∧ c = .unknownRegister d :=
  lookupReg_error

end Sys2Proof.Machine
end

