-- ==== Sys2Proof/Laws/Cycle.lean ====
section
/-! SUPPORT. Everything operand resolution, a decoded instruction and a step can do, said once each. -/

namespace Sys2Proof.Machine

/-! ### Operand resolution -/

theorem resolveToken_star (s : State) (r : Text) : resolveToken s ('*' :: r) = resolveIndirect s r ('*' :: r) := by
  simp [resolveToken, classifySrc]

theorem star_not_special (r : Text) : '*' :: r ∉ specialNames := by
  simp [specialNames]

/-- src resolution is the generic one, for MOVE and for every token that spells no special register (spec 40_cycle R148). -/
theorem resolveSrc_generic {op : Opcode} {t : Text} (h : op = .move ∨ t ∉ specialNames) (s : State) :
    resolveSrc op s t = resolveToken s t := by
  rcases h with rfl | h <;> simp [resolveSrc, *]

theorem resolveSrc_star (op : Opcode) (s : State) (r : Text) :
    resolveSrc op s ('*' :: r) = resolveIndirect s r ('*' :: r) := by
  rw [resolveSrc_generic (.inr (star_not_special r)), resolveToken_star]

/-- The name of a special register is looked up, but under MOVE. -/
theorem resolveSrc_named {op : Opcode} {s : State} {t : Text} (hop : op ≠ .move) (h : t ∈ specialNames) :
    resolveSrc op s t = lookupReg s t t := by
  simp [resolveSrc, hop, h]

/-- A src that spells a special register, and is no register's name, is an UnknownRegister but under MOVE (spec 10_state R34). -/
theorem resolveSrc_special {op : Opcode} {s : State} {t : Text} (hop : op ≠ .move) (h : t ∈ specialNames) (hr : s.reg t = none) :
    resolveSrc op s t = .error (.unknownRegister t) := by
  rw [resolveSrc_named hop h, lookupReg_error.mpr ⟨hr, rfl⟩]

/-- Generic src resolution fails only for a `*R`, for its two reasons (spec 40_cycle R149, R153). -/
theorem resolveToken_error {s : State} {t : Text} {c : Cause} (h : resolveToken s t = .error c) :
    ∃ r, t = '*' :: r ∧ ((s.reg r = none ∧ c = .unknownRegister t) ∨
      ∃ v, s.reg r = some v ∧ dmemRead s.dmem v = .error c) := by
  unfold resolveToken classifySrc at h
  split_ifs at h with h1 h2 h3
  · obtain ⟨r, rfl⟩ : ∃ r, t = '*' :: r := by
      cases t with
      | nil => simp at h1
      | cons c r => simp only [List.head?_cons, beq_iff_eq, Option.some.injEq] at h1; exact ⟨r, by rw [h1]⟩
    refine ⟨r, rfl, ?_⟩
    simp only [List.tail_cons, resolveIndirect] at h
    cases hl : lookupReg s r ('*' :: r) with
    | error d =>
      simp only [hl, Except.error.injEq] at h
      subst h
      exact .inl (lookupReg_error.mp hl)
    | ok v =>
      simp only [hl] at h
      exact .inr ⟨v, lookupReg_ok.mp hl, h⟩
  · have := (lookupReg_error.mp h).1
    rw [State.reg] at this
    simp [this] at h3

/-- src resolution fails only for a `*R`, for its two reasons, and, but under MOVE, for the name of a special register (spec 40_cycle
R149, R153, 10_state R34). -/
theorem resolveSrc_error {op : Opcode} {s : State} {t : Text} {c : Cause} (h : resolveSrc op s t = .error c) :
    (∃ r, t = '*' :: r ∧ ((s.reg r = none ∧ c = .unknownRegister t) ∨
      ∃ v, s.reg r = some v ∧ dmemRead s.dmem v = .error c)) ∨
    (op ≠ .move ∧ t ∈ specialNames ∧ s.reg t = none ∧ c = .unknownRegister t) := by
  by_cases hs : op ≠ .move ∧ t ∈ specialNames
  · rw [resolveSrc_named hs.1 hs.2] at h
    obtain ⟨hr, rfl⟩ := lookupReg_error.mp h
    exact .inr ⟨hs.1, hs.2, hr, rfl⟩
  · rw [resolveSrc_generic (by tauto)] at h
    exact .inl (resolveToken_error h)

/-! ### The execution paths -/

theorem dispatch_alu (f : AluOp) (d src : Text) (x y : Val) (s : State) :
    dispatch f.opcode d src x y s = aluPath f d x y (s.latchVector (generate f.opcode)) := by
  cases f <;> rfl

theorem dispatch_load (d src : Text) (x y : Val) (s : State) :
    dispatch .load d src x y s = loadPath d y (s.latchVector (generate .load)) := rfl

theorem dispatch_store (d src : Text) (x y : Val) (s : State) :
    dispatch .store d src x y s = storePath .store x y (s.latchVector (generate .store)) := rfl

theorem dispatch_move (d src : Text) (x y : Val) (s : State) :
    dispatch .move d src x y s = movePath .move d src (s.latchVector (generate .move)) := rfl

theorem runInstr_resolved {op : Opcode} {d src : Text} {s : State} {x y : Val} (hd : s.reg d = some x)
    (hs : resolveSrc op s src = .ok y) : runInstr op d src s = dispatch op d src x y s := by
  simp [runInstr, resolveDest_ok.mpr hd, hs]

/-- Every answer a decoded instruction can give: an abort in RESOLVE, an abort in DISPATCH, or its one write. -/
inductive InstrAnswer (op : Opcode) (d src : Text) (s : State) : Result → Prop where
  | badDest (h : s.reg d = none) : InstrAnswer op d src s (raiseIn s op (.unknownRegister d))
  | badSrc (x : Val) (c : Cause) (hd : s.reg d = some x) (h : resolveSrc op s src = .error c) :
      InstrAnswer op d src s (raiseIn s op c)
  | absent (f : AluOp) (x y : Val) (hf : f.opcode = op) (hd : s.reg d = some x) (hs : resolveSrc op s src = .ok y)
      (h : presentOk f x y = false) :
      InstrAnswer op d src s (raiseIn (s.latchVector (generate op)) op .absentOperand)
  | alu (f : AluOp) (x y : Val) (hf : f.opcode = op) (hd : s.reg d = some x) (hs : resolveSrc op s src = .ok y)
      (h : presentOk f x y = true) :
      InstrAnswer op d src s (.next (((s.latchVector (generate op)).latchAlu f x y (aluCompute f x y)).setReg d
        (aluCompute f x y).value))
  | load (x y : Val) (hop : op = .load) (hd : s.reg d = some x) (hs : resolveSrc op s src = .ok y) :
      InstrAnswer op d src s (.next ((s.latchVector (generate op)).setReg d y))
  | store (x : Val) (a : Nat) (hop : op = .store) (hd : s.reg d = some x) (hs : resolveSrc op s src = .ok (some (a : Int)))
      (h : a < s.dmem.size) :
      InstrAnswer op d src s (.next ((s.latchVector (generate op)).withDmem (s.dmem.put a x)))
  | badStore (x y : Val) (hop : op = .store) (hd : s.reg d = some x) (hs : resolveSrc op s src = .ok y)
      (h : ¬ ∃ a : Nat, y = some (a : Int) ∧ a < s.dmem.size) :
      InstrAnswer op d src s (raiseIn (s.latchVector (generate op)) op (.invalidAddress .dmem y))
  | move (x y v : Val) (hop : op = .move) (hd : s.reg d = some x) (hs : resolveSrc op s src = .ok y) (h : s.reg src = some v) :
      InstrAnswer op d src s (.next ((s.latchVector (generate op)).setReg d v))
  | badMove (x y : Val) (hop : op = .move) (hd : s.reg d = some x) (hs : resolveSrc op s src = .ok y) (h : s.reg src = none) :
      InstrAnswer op d src s (raiseIn (s.latchVector (generate op)) op (.unknownRegister src))

theorem State.reg_latchVector (s : State) (v : ControlVector) (n : Text) : (s.latchVector v).reg n = s.reg n := rfl

/-- An opcode is ALU-class or one of the three others. -/
theorem opcode_cases (op : Opcode) : (∃ f : AluOp, f.opcode = op) ∨ op = .load ∨ op = .store ∨ op = .move := by
  cases op
  case add => exact .inl ⟨.add, rfl⟩
  case sub => exact .inl ⟨.sub, rfl⟩
  case mul => exact .inl ⟨.mul, rfl⟩
  case div => exact .inl ⟨.div, rfl⟩
  case and => exact .inl ⟨.and, rfl⟩
  case or => exact .inl ⟨.or, rfl⟩
  case not => exact .inl ⟨.not, rfl⟩
  case xor => exact .inl ⟨.xor, rfl⟩
  case jp => exact .inl ⟨.jp, rfl⟩
  case jpz => exact .inl ⟨.jpz, rfl⟩
  case load => exact .inr (.inl rfl)
  case store => exact .inr (.inr (.inl rfl))
  case move => exact .inr (.inr (.inr rfl))

/-- What a decoded instruction does, said once: every later fact about an instruction follows from this. -/
theorem runInstr_answer (op : Opcode) (d src : Text) (s : State) : InstrAnswer op d src s (runInstr op d src s) := by
  cases hd : s.reg d with
  | none =>
    have h : runInstr op d src s = raiseIn s op (.unknownRegister d) := by
      simp [runInstr, resolveDest_error.mpr ⟨hd, rfl⟩]
    rw [h]; exact .badDest hd
  | some x =>
    cases hs : resolveSrc op s src with
    | error c =>
      have h : runInstr op d src s = raiseIn s op c := by simp [runInstr, resolveDest_ok.mpr hd, hs]
      rw [h]; exact .badSrc x c hd hs
    | ok y =>
      rw [runInstr_resolved hd hs]
      rcases opcode_cases op with ⟨f, rfl⟩ | rfl | rfl | rfl
      · rw [dispatch_alu, aluPath]
        split_ifs with hp
        · exact .alu f x y rfl hd hs hp
        · exact .absent f x y rfl hd hs (by simpa using hp)
      · exact .load x y rfl hd hs
      · rw [dispatch_store, storePath]
        cases hw : dmemWrite (s.latchVector (generate .store)).dmem y x with
        | ok m =>
          obtain ⟨a, rfl, ha, rfl⟩ := dmemWrite_ok.mp hw
          exact .store x a rfl hd hs ha
        | error c =>
          obtain ⟨rfl, ha⟩ := dmemWrite_error.mp hw
          exact .badStore x y rfl hd hs ha
      · rw [dispatch_move, movePath]
        cases hl : lookupReg (s.latchVector (generate .move)) src src with
        | ok v => exact .move x y v rfl hd hs (lookupReg_ok.mp hl)
        | error c =>
          obtain ⟨hn, rfl⟩ := lookupReg_error.mp hl
          exact .badMove x y rfl hd hs hn

/-- `exec` runs the cycle of the instruction's opcode on its two tokens. -/
theorem exec_eq_runInstr (i : Instr) (s : State) : exec i s = runInstr i.opcode i.dest i.src s := by
  cases i <;> rfl

theorem exec_answer (i : Instr) (s : State) : InstrAnswer i.opcode i.dest i.src s (exec i s) := by
  rw [exec_eq_runInstr]; exact runInstr_answer ..

/-! ### A step -/

/-- FETCH answers the line of the slot at PC. -/
theorem fetchLine_ok {s : State} {line : Text} : fetchLine s = .ok line ↔ s.pc < s.imem.size ∧ s.imem.get s.pc = some line := by
  unfold fetchLine
  cases h : imemRead s.imem s.pc with
  | error c =>
    have := (imemRead_error.mp h).2
    simp only [reduceCtorEq, false_iff]
    rintro ⟨h1, _⟩
    exact this ⟨s.pc, rfl, h1⟩
  | ok t =>
    obtain ⟨i, hi, hlt, rfl⟩ := imemRead_ok.mp h
    have hi' : i = s.pc := by omega
    subst hi'
    cases hg : s.imem.get s.pc <;> simp [hlt]

/-- FETCH fails on an EMPTY slot, and out of range. -/
theorem fetchLine_error {s : State} {c : Cause} : fetchLine s = .error c ↔
    (s.pc < s.imem.size ∧ s.imem.get s.pc = none ∧ c = .noInstructionAtAddress) ∨
    (¬ s.pc < s.imem.size ∧ c = .invalidAddress .imem (some s.pc)) := by
  unfold fetchLine
  cases h : imemRead s.imem s.pc with
  | error d =>
    obtain ⟨rfl, hn⟩ := imemRead_error.mp h
    have : ¬ s.pc < s.imem.size := fun hlt => hn ⟨s.pc, rfl, hlt⟩
    simp [this, eq_comm]
  | ok t =>
    obtain ⟨i, hi, hlt, rfl⟩ := imemRead_ok.mp h
    have hi' : i = s.pc := by omega
    subst hi'
    cases hg : s.imem.get s.pc <;> simp [hlt, eq_comm]

/-- Every answer a step can give. -/
inductive StepAnswer (s : State) : Result → Prop where
  | stuck (e : ErrorRecord) (h : s.fault = some e) : StepAnswer s (.fault (.stuck e))
  | noFetch (c : Cause) (hf : s.fault = none) (h : fetchLine s = .error c) : StepAnswer s (raiseAt s s.pc none c)
  | noInstr (line : Text) (e : DecodeError) (hf : s.fault = none) (h : fetchLine s = .ok line) (hd : decode line = .error e) :
      StepAnswer s (raiseAt (s.latchLine line) s.pc none (decodeCause e))
  | ran (line : Text) (i : Instr) (hf : s.fault = none) (h : fetchLine s = .ok line) (hd : decode line = .ok i) :
      StepAnswer s (exec i (s.latchLine line))

/-- What a step does, said once. -/
theorem step_answer (s : State) : StepAnswer s (step s) := by
  unfold step
  cases hf : s.fault with
  | some e => exact .stuck e hf
  | none =>
    cases h : fetchLine s with
    | error c => exact .noFetch c hf h
    | ok line =>
      cases hd : decode line with
      | error e => simpa only [hd] using StepAnswer.noInstr line e hf h hd
      | ok i => simpa only [hd] using StepAnswer.ran line i hf h hd

end Sys2Proof.Machine
end

