-- ==== Sys2Proof/Laws/Tokens.lean ====
section
/-! SUPPORT. What the tokenizer does with a token and with separators. -/

namespace Sys2Proof

theorem consToken_of_ne_nil {t : Text} (ts : List Text) (h : t ≠ []) : consToken t ts = t :: ts := by
  cases t with
  | nil => exact absurd rfl h
  | cons c t => rfl

@[simp] theorem consToken_nil (ts : List Text) : consToken [] ts = ts := rfl

theorem splitTokens_sep {c : Char} (cs : Text) (h : Machine.isSep c = true) :
    splitTokens (c :: cs) = ([], tokenize cs) := by
  simp [splitTokens, h, tokenize]

/-- Separators in front of a line change nothing. -/
theorem tokenize_append_seps {seps : Text} (rest : Text) (h : seps.all Machine.isSep = true) :
    tokenize (seps ++ rest) = tokenize rest := by
  induction seps with
  | nil => rfl
  | cons c cs ih =>
    simp only [List.all_cons, Bool.and_eq_true] at h
    rw [List.cons_append, tokenize, splitTokens_sep _ h.1, consToken_nil, ih h.2]

theorem splitTokens_token {t : Text} (rest : Text) (h : Machine.hasNoSep t = true) :
    splitTokens (t ++ rest) = (t ++ (splitTokens rest).1, (splitTokens rest).2) := by
  induction t with
  | nil => rfl
  | cons c t ih =>
    simp only [Machine.hasNoSep, List.all_cons, Bool.and_eq_true, Bool.not_eq_true'] at h
    have := ih h.2
    simp [splitTokens, h.1, this]

/-- A token, a separator and the rest of a line. -/
theorem tokenize_token_sep {t : Text} {c : Char} (rest : Text) (ht : t ≠ []) (h : Machine.hasNoSep t = true)
    (hc : Machine.isSep c = true) : tokenize (t ++ c :: rest) = t :: tokenize rest := by
  rw [tokenize, splitTokens_token _ h, splitTokens_sep _ hc, List.append_nil, consToken_of_ne_nil _ ht]

/-- A token that ends the line. -/
theorem tokenize_token {t : Text} (ht : t ≠ []) (h : Machine.hasNoSep t = true) : tokenize t = [t] := by
  have := splitTokens_token (t := t) [] h
  rw [List.append_nil] at this
  rw [tokenize, this]
  simp [splitTokens, consToken_of_ne_nil _ ht]

theorem mnemonic_ne_nil (op : Opcode) : op.mnemonic ≠ [] := by
  cases op <;> decide

theorem mnemonic_hasNoSep (op : Opcode) : Machine.hasNoSep op.mnemonic = true := by
  cases op <;> decide

/-- A mnemonic selects its own opcode: no two are the same. -/
theorem opcodeOfMnemonic_mnemonic (op : Opcode) : opcodeOfMnemonic op.mnemonic = some op := by
  cases op <;> decide

/-- The tokens an instruction stands for, less the missing ones. -/
def Instr.tokens (i : Instr) : List Text :=
  i.opcode.mnemonic :: consToken i.dest (consToken i.src [])

@[simp] theorem opcode_instr (op : Opcode) (d s : Text) : (op.instr d s).opcode = op := by cases op <;> rfl

@[simp] theorem dest_instr (op : Opcode) (d s : Text) : (op.instr d s).dest = d := by cases op <;> rfl

@[simp] theorem src_instr (op : Opcode) (d s : Text) : (op.instr d s).src = s := by cases op <;> rfl

/-- Encoding a well-formed instruction of given opcode and tokens, and reading its tokens back. -/
theorem tokenize_encode_instr (op : Opcode) (d s : Text) (h : (op.instr d s).wf = true) :
    tokenize (encode (op.instr d s)) = (op.instr d s).tokens := by
  simp only [Instr.wf, dest_instr, src_instr, Bool.and_eq_true, Bool.or_eq_true, Bool.not_eq_true'] at h
  obtain ⟨⟨hd, hs⟩, ho⟩ := h
  have hm := mnemonic_ne_nil op
  have hn := mnemonic_hasNoSep op
  have hsp : Machine.isSep ' ' = true := by decide
  have hco : Machine.isSep ',' = true := by decide
  have t1 : " ".toList = [' '] := by decide
  have t2 : ", ".toList = [',', ' '] := by decide
  simp only [encode, Instr.tokens, opcode_instr, dest_instr, src_instr, afterBreak]
  cases d with
  | nil =>
    have hs' : s = [] := by simpa using ho
    subst hs'
    simp [tokenize_token hm hn]
  | cons c d =>
    have hdn : c :: d ≠ [] := by simp
    cases s with
    | nil =>
      simp only [List.isEmpty_cons, Bool.false_eq_true, if_false, t1, List.isEmpty_nil, if_true, List.append_nil, consToken_nil,
        List.singleton_append]
      rw [tokenize_token_sep _ hm hn hsp, tokenize_token hdn hd, consToken_of_ne_nil _ hdn]
    | cons c' s =>
      have hsn : c' :: s ≠ [] := by simp
      simp only [List.isEmpty_cons, Bool.false_eq_true, if_false, t1, t2, List.cons_append, List.nil_append]
      rw [tokenize_token_sep _ hm hn hsp]
      have := tokenize_token_sep (t := c :: d) (c := ',') (' ' :: c' :: s) hdn hd hco
      rw [List.cons_append] at this
      rw [this, tokenize, splitTokens_sep _ hsp, consToken_nil, tokenize_token hsn hs, consToken_of_ne_nil _ hdn,
        consToken_of_ne_nil _ hsn]

end Sys2Proof
end

