-- ==== Sys2Proof/Laws/PerInstr.lean ====
section
/-! SUPPORT. Facts about every instruction as syntax, one lemma per constructor. -/

namespace Sys2Proof.Laws.EncodeTokens

/-- The tokenizer reads from an instruction's line its mnemonic and its tokens, none lost and none added. -/
def Statement (i : Instr) : Prop :=
  i.wf = true → tokenize (encode i) = i.tokens

theorem add (d s : Text) : Statement (.add d s) := tokenize_encode_instr .add d s

theorem sub (d s : Text) : Statement (.sub d s) := tokenize_encode_instr .sub d s

theorem mul (d s : Text) : Statement (.mul d s) := tokenize_encode_instr .mul d s

theorem div (d s : Text) : Statement (.div d s) := tokenize_encode_instr .div d s

theorem and (d s : Text) : Statement (.and d s) := tokenize_encode_instr .and d s

theorem or (d s : Text) : Statement (.or d s) := tokenize_encode_instr .or d s

theorem not (d s : Text) : Statement (.not d s) := tokenize_encode_instr .not d s

theorem xor (d s : Text) : Statement (.xor d s) := tokenize_encode_instr .xor d s

theorem jp (d s : Text) : Statement (.jp d s) := tokenize_encode_instr .jp d s

theorem jpz (d s : Text) : Statement (.jpz d s) := tokenize_encode_instr .jpz d s

theorem load (d s : Text) : Statement (.load d s) := tokenize_encode_instr .load d s

theorem store (d s : Text) : Statement (.store d s) := tokenize_encode_instr .store d s

theorem move (d s : Text) : Statement (.move d s) := tokenize_encode_instr .move d s

end Sys2Proof.Laws.EncodeTokens
end

