-- ==== Sys2Proof/Tests/Slice0.lean ====
section
/-! SUPPORT. Tests by `decide`: what the checks of well-formedness refuse, what lines decode to, one or two single steps for each
instruction with the values of spec 95_test_vectors, and, for each statement with hypotheses, a state and operands that meet them. -/

namespace Sys2Proof.Tests

open Sys2Proof.Machine

/-- The reset state with the four registers holding these values. -/
def regs (v1 v2 v3 v4 : Val) : State :=
  { State.reset with gpr := [⟨"R1".toList, v1⟩, ⟨"R2".toList, v2⟩, ⟨"R3".toList, v3⟩, ⟨"R4".toList, v4⟩] }

/-- The state with one data word written. -/
def word (a : Nat) (v : Int) (s : State) : State :=
  { s with dmem := s.dmem.put a (some v) }

/-- The state with a line in the slot at PC. -/
def line (text : String) (s : State) : State :=
  { s with imem := s.imem.put s.pc (some text.toList) }

/-- The state after one step that runs the line, and the state itself where there is none. -/
def after (text : String) (s : State) : State :=
  match step (line text s) with
  | .next t => t
  | _ => s

/-- The four flags Z C S O. -/
def flags (z c s o : Flag) : Psw :=
  { z := z, c := c, s := s, o := o }

/-! ### Well-formedness: each check refuses an ill-formed term -/

theorem test_wf_accepts : (Instr.add "R1".toList "R2".toList).wf = true := by decide
theorem test_wf_accepts_missing_tokens : (Instr.not [] []).wf = true := by decide
theorem test_wf_refuses_separator_in_dest : (Instr.add "R 1".toList "R2".toList).wf = false := by decide
theorem test_wf_refuses_separator_in_src : (Instr.add "R1".toList "R2,".toList).wf = false := by decide
theorem test_wf_refuses_src_without_dest : (Instr.add [] "R2".toList).wf = false := by decide
theorem test_config_wf : Config.test.wf = true := by decide
theorem test_config_refuses_no_names : (Config.wf { Config.test with gprNames := [] }) = false := by decide
theorem test_config_refuses_double_name : gprNamesOk ["A".toList, "A".toList] = false := by decide
theorem test_config_refuses_bad_names : [[], "12".toList, "*R".toList, "A B".toList, "A,".toList, "PC".toList, "MAR".toList,
    "IR".toList, "MBR".toList].map gprNameOk = List.replicate 9 false := by decide
theorem test_config_refuses_no_slots : (Config.wf { Config.test with imemSize := 0 }) = false := by decide
theorem test_config_refuses_no_words : (Config.wf { Config.test with dmemSize := 0 }) = false := by decide
theorem test_config_of_total : Config.ofTotal ["A".toList] 33 = { gprNames := ["A".toList], imemSize := 16, dmemSize := 16 } := by
  decide

/-! ### Decoding: a line of each constructor as 95_test_vectors writes it (section 3 and 2.4 to 2.7) -/

theorem test_decode_add : decode "ADD R1, R2".toList = .ok (.add "R1".toList "R2".toList) := by rfl
theorem test_decode_sub : decode "SUB R3, R1".toList = .ok (.sub "R3".toList "R1".toList) := by rfl
theorem test_decode_mul : decode "MUL R2, R2".toList = .ok (.mul "R2".toList "R2".toList) := by rfl
theorem test_decode_div : decode "DIV R1, R2".toList = .ok (.div "R1".toList "R2".toList) := by rfl
theorem test_decode_and : decode "AND R3, R2".toList = .ok (.and "R3".toList "R2".toList) := by rfl
theorem test_decode_or : decode "OR R1,R2".toList = .ok (.or "R1".toList "R2".toList) := by rfl
theorem test_decode_not : decode "NOT R3, R4".toList = .ok (.not "R3".toList "R4".toList) := by rfl
theorem test_decode_xor : decode "XOR R1, R1".toList = .ok (.xor "R1".toList "R1".toList) := by rfl
theorem test_decode_jp : decode "JP R2".toList = .ok (.jp "R2".toList []) := by rfl
theorem test_decode_jpz : decode "JPZ R1, R2".toList = .ok (.jpz "R1".toList "R2".toList) := by rfl
theorem test_decode_load : decode "LOAD R3, *R1".toList = .ok (.load "R3".toList "*R1".toList) := by rfl
theorem test_decode_store : decode "STORE R1, 4".toList = .ok (.store "R1".toList "4".toList) := by rfl
theorem test_decode_move : decode "MOVE R1, R3".toList = .ok (.move "R1".toList "R3".toList) := by rfl
theorem test_decode_mixed_separators :
    decode ['A', 'D', 'D', '\t', 'R', '1', '\x0b', ',', '\x0c', 'R', '2', '\r', '\n'] = .ok (.add "R1".toList "R2".toList) := by rfl
theorem test_decode_unknown : decode "HALT".toList = .error (.unknownOpcode "HALT".toList) := by rfl
theorem test_decode_label : decode "loop: ADD R1, R2".toList = .error (.malformed "loop: ADD R1, R2".toList) := by rfl

/-- The fetch word of the table's code runs as the first instruction after reset: LOAD's puts 0 in R1. -/
theorem test_fetch_word_load : (match step (State.reset.withFetchWord 8 0xA) with
    | .next t => (t.reg "R1".toList, t.pc, t.fault)
    | _ => (none, 0, none)) = (some (some 0), 1, none) := by decide

/-! ### One step (95_test_vectors 1 and 2) -/

theorem test_add_signed_overflow : (after "ADD R1, R2" (regs (some 2147483647) (some 1) none none)).psw =
    flags (some false) (some false) (some false) (some true) := by decide
theorem test_add_carry : (after "ADD R1, R2" (regs (some 4294967295) (some 1) none none)).reg "R1".toList =
    some (some 4294967296) := by decide
theorem test_sub_borrow : (after "SUB R1, R2" (regs (some (-2147483648)) (some 1) none none)).psw =
    flags (some false) (some true) (some true) (some true) := by decide
theorem test_sub_self : (after "SUB R1, R1" (regs (some (-7)) none none none)).reg "R1".toList = some (some 0) := by decide
theorem test_mul_keeps_overflow : (after "MUL R1, R2" { regs (some 65536) (some 65536) none none with
    psw := flags none none none (some true) }).psw = flags (some false) (some true) (some false) (some true) := by decide
theorem test_mul_sign : (after "MUL R1, R2" (regs (some (-3)) (some 4) none none)).aluValue = some (-12) := by decide
theorem test_div_floor : (after "DIV R1, R2" (regs (some (-7)) (some (-2)) none none)).reg "R1".toList = some (some 3) := by decide
theorem test_div_absent_by_zero : (after "DIV R1, 0" (regs none none none none)).psw =
    flags (some true) none (some false) none := by decide
theorem test_and_negative : (after "AND R1, R2" (regs (some (-4)) (some (-6)) none none)).aluValue = some (-8) := by decide
theorem test_or_negative : (after "OR R1, R2" (regs (some (-8)) (some 3) none none)).aluValue = some (-5) := by decide
theorem test_not_ignores_dest : (after "NOT R1, 5" (regs none none none none)).reg "R1".toList = some (some (-6)) := by decide
theorem test_xor_negative : (after "XOR R1, R2" (regs (some (-1)) (some 5) none none)).aluValue = some (-6) := by decide
theorem test_jp_writes_no_pc : (after "JP R1" { regs (some 7) none none none with pc := 2 }).pc = 3 := by decide
theorem test_jpz_not_taken : (after "JPZ R1, R2" (regs (some 7) (some 3) none none)).reg "R1".toList = some none := by decide
theorem test_jpz_taken : (after "JPZ R1, 0" (regs (some (-2)) none none none)).psw =
    flags (some false) none (some true) none := by decide
theorem test_load_indirect_self : (after "LOAD R1, *R1" (word 4 11 (regs (some 4) none none none))).reg "R1".toList =
    some (some 11) := by decide
theorem test_load_minus_five : (after "LOAD R1, -5" (regs (some 3) none none none)).reg "R1".toList = some none := by decide
theorem test_store_memory_indirect : (after "STORE R1, *R2" (word 3 12 (regs (some 7) (some 3) none none))).dmem.cells =
    [(3, 12), (12, 7)] := by decide
theorem test_store_out_of_range : (after "STORE R2, R1" { regs (some 16) (some 5) none none with pc := 2 }).fault =
    some ⟨.invalidAddress .dmem (some 16), 2, some .store⟩ := by decide
theorem test_move_copies : (after "MOVE R1, R2" (regs (some 1) (some 9) none none)).reg "R1".toList = some (some 9) := by decide
theorem test_absent_operand_csv : (after "ADD R1, foo" (regs (some 1) none none none)).csv.map packVector = some 0x0E7 := by decide
/-- 10_state R34, 93 U9: an operand that names a special register. -/
theorem test_special_src : resolveSrc .load State.reset "MAR".toList = .error (.unknownRegister "MAR".toList) := by rfl
/-- 44_data_transfer R262: MOVE raises it in DISPATCH, with CSV latched. -/
theorem test_special_src_move : (after "MOVE R1, PC" State.reset).csv.map packVector = some 0x067 ∧
    (after "MOVE R1, PC" State.reset).fault = some ⟨.unknownRegister "PC".toList, 0, some .move⟩ := by decide
theorem test_malformed_advances_pc : (after ",,," State.reset).pc = 1 := by decide

/-! ### Every hypothesis of a statement is met by some state and operands -/

/-- The hypotheses of `OperandErrors`, which every instruction's statement shares: a dest that is no register, a `*R` of an unknown
R, and a `*R` whose address is NONE, -1 or the size. -/
def OperandErrorCases : Prop :=
  State.reset.reg "R9".toList = none ∧
  (State.reset.reg "R1".toList = some none ∧ "*R9".toList = '*' :: "R9".toList ∧ State.reset.reg "R9".toList = none) ∧
  ((regs none (some 16) (some (-1)) none).reg "R1".toList = some none ∧
    (regs none (some 16) (some (-1)) none).reg "R2".toList = some (some 16) ∧
    (regs none (some 16) (some (-1)) none).reg "R3".toList = some (some (-1)) ∧
    ¬ InRange (regs none (some 16) (some (-1)) none).dmem.size (some 16) ∧
    ¬ InRange (regs none (some 16) (some (-1)) none).dmem.size (some (-1)) ∧
    ¬ InRange (regs none (some 16) (some (-1)) none).dmem.size none)

theorem not_inRange_16 : ¬ InRange 16 (some 16) := by rintro ⟨i, h, _, h2⟩; cases h; omega
theorem not_inRange_minus_one : ¬ InRange 16 (some (-1)) := by rintro ⟨i, h, h1, _⟩; cases h; omega
theorem not_inRange_none : ¬ InRange 16 none := by rintro ⟨i, h, _⟩; cases h
theorem inRange_0 : InRange 16 (some 0) := ⟨0, rfl, by omega, by omega⟩
theorem inRange_15 : InRange 16 (some 15) := ⟨15, rfl, by omega, by omega⟩

theorem operandErrorCases : OperandErrorCases :=
  ⟨by decide, ⟨by decide, by decide, by decide⟩,
    ⟨by decide, by decide, by decide, not_inRange_16, not_inRange_minus_one, not_inRange_none⟩⟩

/-- The hypotheses of a two-operand ALU instruction: both operands present, register-direct, immediate and indirect; the first or the
second absent. -/
def BothOperandCases (op : Opcode) : Prop :=
  ((regs (some 5) (some 3) none none).reg "R1".toList = some (some 5) ∧
    resolveSrc op (regs (some 5) (some 3) none none) "R2".toList = .ok (some 3) ∧
    resolveSrc op (regs (some 5) (some 3) none none) "7".toList = .ok (some 7) ∧
    resolveSrc op (word 3 11 (regs (some 5) (some 3) none none)) "*R2".toList = .ok (some 11)) ∧
  (State.reset.reg "R1".toList = some none ∧ resolveSrc op State.reset "7".toList = .ok (some 7)) ∧
  ((regs (some 5) none none none).reg "R1".toList = some (some 5) ∧
    resolveSrc op (regs (some 5) none none none) "foo".toList = .ok none)

theorem bothOperandCases (op : Opcode) : BothOperandCases op := by
  cases op <;> exact ⟨⟨by decide, by rfl, by rfl, by rfl⟩, ⟨by decide, by rfl⟩, ⟨by decide, by rfl⟩⟩

theorem witness_ConstructedCoreHasResetValues :
    "R1".toList ∈ Config.test.gprNames ∧ "PC".toList ∉ Config.test.gprNames ∧ 15 < Config.test.dmemSize := by decide

theorem witness_InvariantHoldsAtReset : gprNamesOk Config.test.gprNames = true := by decide

/-- A state in the middle of a run, with a data word, that meets the invariant and steps. -/
def running : State :=
  line "ADD R1, R2" (word 3 11 (after "ADD R1, R2" (regs (some 5) (some 3) none none)))

theorem running_inv : Inv running where
  imem := by decide
  dmem := by decide
  names := by decide
  latches := .inr ⟨0, "ADD R1, R2".toList, by decide, by decide, by decide, by decide⟩
  alu := by
    show presentOk .add (some 5) (some 3) = true ∧ running.aluValue = (aluCompute .add (some 5) (some 3)).value ∧
      running.psw.z = some (zeroOf running.aluValue) ∧ running.psw.s = some (signOf running.aluValue)
    decide
  vector := .inr ⟨.add, by decide⟩
  fault := by intro e h; exact absurd h (by rw [show running.fault = none by decide]; simp)

theorem witness_InvariantKeptByEveryStep : Inv running ∧ ∃ t, step running = .next t :=
  ⟨running_inv, _, rfl⟩

theorem witness_StepRunsDecodedInstruction : running.fault = none ∧ running.pc < running.imem.size ∧
    running.imem.get running.pc = some "ADD R1, R2".toList ∧
    decode "ADD R1, R2".toList = .ok (.add "R1".toList "R2".toList) :=
  ⟨by decide, by decide, by decide, rfl⟩

/-- A state with a recorded fault, MOVE's src being no register. -/
def faulted : State :=
  after "MOVE R1, 5" State.reset

theorem witness_RecordedFaultStopsCore : faulted.fault = some ⟨.unknownRegister "5".toList, 0, some .move⟩ := by decide

theorem witness_FetchFailuresChangeOnlyFault :
    (({ State.reset with pc := 16 } : State).fault = none ∧ ¬ ({ State.reset with pc := 16 } : State).pc < State.reset.imem.size) ∧
    (({ State.reset with pc := 15 } : State).fault = none ∧ ({ State.reset with pc := 15 } : State).pc < State.reset.imem.size ∧
      State.reset.imem.get 15 = none) := by decide

theorem witness_DecodeFailuresKeepLatches :
    ((line ",,," State.reset).fault = none ∧ (line ",,," State.reset).pc < (line ",,," State.reset).imem.size ∧
      (line ",,," State.reset).imem.get 0 = some ",,,".toList ∧ tokenize ",,,".toList = [] ∧
      3 < (tokenize "FOO R1 R2 R3".toList).length) ∧
    (tokenize "add R1, R2".toList = "add".toList :: ["R1".toList, "R2".toList] ∧ tokenize "HALT".toList = "HALT".toList :: [] ∧
      (∀ op : Opcode, "add".toList ≠ op.mnemonic) ∧ ∀ op : Opcode, "HALT".toList ≠ op.mnemonic) :=
  ⟨by decide, by decide, by decide, by intro op; cases op <;> decide, by intro op; cases op <;> decide⟩

theorem witness_PcChangesOnlyByIncrement :
    (∃ t, exec (.jp "R1".toList []) State.reset = .next t) ∧ (∃ t, step running = .next t) ∧
    (({ State.reset with pc := 16 } : State).fault = none ∧ State.reset.imem.size ≤ ({ State.reset with pc := 16 } : State).pc) :=
  ⟨⟨_, rfl⟩, ⟨_, rfl⟩, by decide⟩

theorem witness_EveryCycleHasNextState : State.reset.fault = none := rfl

theorem witness_AbortedCycleLeavesPhaseState :
    ((∃ t, step State.reset = .next t ∧ t.fault = some ⟨.noInstructionAtAddress, 0, none⟩) ∧ State.reset.fault = none) ∧
    (∃ t, step (line ",,," State.reset) = .next t ∧ t.fault = some ⟨.malformedInstruction ",,,".toList, 0, none⟩) ∧
    (∃ t, step (line "ADD R9, R1" State.reset) = .next t ∧ t.fault = some ⟨.unknownRegister "R9".toList, 0, some .add⟩) ∧
    (∃ t, step (line "MOVE R1, 5" State.reset) = .next t ∧ t.fault = some ⟨.unknownRegister "5".toList, 0, some .move⟩) :=
  ⟨⟨⟨_, rfl, rfl⟩, rfl⟩, ⟨_, rfl, rfl⟩, ⟨_, rfl, rfl⟩, ⟨_, rfl, rfl⟩⟩

/-- A LOAD, a MOVE and a STORE that complete. -/
theorem completions :
    (∃ t, exec (.load "R1".toList "5".toList) State.reset = .next t ∧ t.fault = none) ∧
    (∃ t, exec (.move "R1".toList "R2".toList) State.reset = .next t ∧ t.fault = none) ∧
    (∃ t, exec (.store "R1".toList "15".toList) (regs (some 7) none none none) = .next t ∧ t.dmem.get 15 = some 7) :=
  ⟨⟨_, rfl, rfl⟩, ⟨_, rfl, rfl⟩, ⟨_, rfl, by decide⟩⟩

theorem witness_FlagsChangeOnlyByTheirWriters : ∃ t, exec (.add "R1".toList "R2".toList) (regs (some 5) (some 3) none none) =
    .next t ∧ t.psw.c ≠ (regs (some 5) (some 3) none none).psw.c ∧ t.psw.o ≠ (regs (some 5) (some 3) none none).psw.o :=
  ⟨_, rfl, by decide, by decide⟩

theorem witness_ObservedLatchesInfluenceNothing :
    running.forgetObserved = ({ running with psw := flags none (some true) none none, mar := some 9 } : State).forgetObserved ∧
    ∃ t, step running = .next t :=
  ⟨rfl, _, rfl⟩

/-- After `STORE R1, 15`: the word is read back through R2 after a LOAD of the address, with no other STORE in between. -/
theorem witness_StoreThenLoadRoundTrip :
    (regs (some 7) none none none).reg "R1".toList = some (some 7) ∧
    resolveSrc .store (regs (some 7) none none none) "15".toList = .ok (some ((15 : Nat) : Int)) ∧
    15 < (regs (some 7) none none none).dmem.size ∧
    ∃ t, exec (.store "R1".toList "15".toList) (regs (some 7) none none none) = .next t ∧
      ∃ u, ReachesWithoutStoreTo 15 [.load "R2".toList "15".toList] t u ∧ u.reg "R3".toList = some none ∧
        u.reg "R2".toList = some (some ((15 : Nat) : Int)) := by
  refine ⟨by decide, rfl, by decide, _, rfl, _, ⟨?_, _, rfl, rfl⟩, by decide, by decide⟩
  rintro ⟨h, _⟩
  cases h

theorem witness_AddWritesExactSumAndAllFlags : BothOperandCases .add ∧ OperandErrorCases := ⟨(bothOperandCases .add), operandErrorCases⟩
theorem witness_SubWritesExactDifferenceAndAllFlags : BothOperandCases .sub ∧ OperandErrorCases := ⟨(bothOperandCases .sub), operandErrorCases⟩
theorem witness_MulWritesExactProductAndKeepsOverflow : BothOperandCases .mul ∧ OperandErrorCases := ⟨(bothOperandCases .mul), operandErrorCases⟩
theorem witness_AndWritesBitwiseAnd : BothOperandCases .and ∧ OperandErrorCases := ⟨(bothOperandCases .and), operandErrorCases⟩
theorem witness_OrWritesBitwiseOr : BothOperandCases .or ∧ OperandErrorCases := ⟨(bothOperandCases .or), operandErrorCases⟩
theorem witness_XorWritesBitwiseXor : BothOperandCases .xor ∧ OperandErrorCases := ⟨(bothOperandCases .xor), operandErrorCases⟩

theorem witness_DivWritesFloorQuotientOrZero :
    (State.reset.reg "R1".toList = some none ∧ resolveSrc .div State.reset "0".toList = .ok (some 0)) ∧
    ((3 : Int) ≠ 0 ∧ BothOperandCases .div) ∧ OperandErrorCases :=
  ⟨⟨by decide, rfl⟩, ⟨by decide, (bothOperandCases .div)⟩, operandErrorCases⟩

theorem witness_NotWritesComplementOfSrc :
    (State.reset.reg "R1".toList = some none ∧ resolveSrc .not State.reset "5".toList = .ok (some 5) ∧
      resolveSrc .not State.reset [] = .ok none) ∧ OperandErrorCases :=
  ⟨⟨by decide, rfl, rfl⟩, operandErrorCases⟩

theorem witness_JpWritesDestToItself :
    ((regs (some 7) none none none).reg "R1".toList = some (some 7) ∧ resolveSrc .jp (regs (some 7) none none none) [] = .ok none) ∧
    (State.reset.reg "R1".toList = some none ∧ resolveSrc .jp State.reset [] = .ok none) ∧ OperandErrorCases :=
  ⟨⟨by decide, rfl⟩, ⟨by decide, rfl⟩, operandErrorCases⟩

theorem witness_JpzKeepsDestOrWritesNone :
    ((regs (some 7) none none none).reg "R1".toList = some (some 7) ∧
      resolveSrc .jpz (regs (some 7) none none none) "0".toList = .ok (some 0)) ∧
    (State.reset.reg "R1".toList = some none ∧ resolveSrc .jpz State.reset "0".toList = .ok (some 0)) ∧
    (resolveSrc .jpz State.reset "1".toList = .ok (some 1) ∧ (some 1 : Val) ≠ some 0 ∧ resolveSrc .jpz State.reset [] = .ok none ∧
      (none : Val) ≠ some 0) ∧ OperandErrorCases :=
  ⟨⟨by decide, rfl⟩, ⟨by decide, rfl⟩, ⟨rfl, by decide, rfl, by decide⟩, operandErrorCases⟩

theorem witness_LoadWritesResolvedSrc :
    (State.reset.reg "R1".toList = some none ∧ resolveSrc .load State.reset "foo".toList = .ok none ∧
      resolveSrc .load (word 15 9 (regs none (some 15) none none)) "*R2".toList = .ok (some 9)) ∧ OperandErrorCases :=
  ⟨⟨by decide, rfl, rfl⟩, operandErrorCases⟩

theorem witness_StoreWritesDestAtResolvedSrc :
    (State.reset.reg "R1".toList = some none ∧ resolveSrc .store State.reset "0".toList = .ok (some ((0 : Nat) : Int)) ∧
      resolveSrc .store State.reset "15".toList = .ok (some ((15 : Nat) : Int)) ∧ 15 < State.reset.dmem.size) ∧
    (resolveSrc .store State.reset "16".toList = .ok (some 16) ∧ ¬ InRange State.reset.dmem.size (some 16) ∧
      resolveSrc .store State.reset "foo".toList = .ok none ∧ ¬ InRange State.reset.dmem.size none) ∧ OperandErrorCases :=
  ⟨⟨by decide, rfl, rfl, by decide⟩, ⟨rfl, not_inRange_16, rfl, not_inRange_none⟩, operandErrorCases⟩

theorem witness_MoveCopiesRegisterNamedBySrc :
    ((regs none (some 9) none none).reg "R1".toList = some none ∧
      resolveSrc .move (regs none (some 9) none none) "R2".toList = .ok (some 9) ∧
      (regs none (some 9) none none).reg "R2".toList = some (some 9)) ∧
    (resolveSrc .move State.reset "5".toList = .ok (some 5) ∧ State.reset.reg "5".toList = none) ∧ OperandErrorCases :=
  ⟨⟨by decide, rfl, by decide⟩, ⟨rfl, by decide⟩, operandErrorCases⟩

theorem witness_AluClassFrame : IsAluOpcode .mul ∧ (Opcode.mul ≠ .add ∧ Opcode.mul ≠ .sub) ∧
    (IsAluOpcode .div ∧ Opcode.div ≠ .add ∧ Opcode.div ≠ .sub ∧ Opcode.div ≠ .mul) ∧
    ∃ t, exec (.div "R1".toList "0".toList) State.reset = .next t :=
  ⟨⟨.mul, rfl⟩, by decide, ⟨⟨.div, rfl⟩, by decide⟩, _, rfl⟩

theorem witness_LoadMoveFrame : (∃ t, exec (.load "R1".toList "5".toList) State.reset = .next t ∧ t.fault = none) ∧
    (∃ t, exec (.move "R1".toList "R2".toList) State.reset = .next t ∧ t.fault = none) :=
  ⟨completions.1, completions.2.1⟩

theorem witness_StoreFrame : (∃ t, exec (.store "R1".toList "15".toList) (regs (some 7) none none none) = .next t ∧
      t.dmem.get 15 = some 7) ∧
    resolveSrc .store (regs (some 7) none none none) "15".toList = .ok (some ((15 : Nat) : Int)) ∧
    (∀ a : Nat, resolveSrc .store (regs (some 7) none none none) "foo".toList ≠ .ok (some (a : Int))) :=
  ⟨completions.2.2, rfl, by intro a h; rw [show resolveSrc .store (regs (some 7) none none none) "foo".toList = .ok none from rfl] at h; cases h⟩

theorem witness_OnlyStoreChangesMemory :
    ∃ t, step (line "STORE R1, 15" (regs (some 7) none none none)) = .next t ∧
      t.dmem ≠ (line "STORE R1, 15" (regs (some 7) none none none)).dmem :=
  ⟨_, rfl, by decide⟩

theorem witness_SrcResolvesByFirstMatchingClass :
    ((regs (some 15) (some 16) none none).reg "R1".toList = some (some ((15 : Nat) : Int)) ∧
      15 < (regs (some 15) (some 16) none none).dmem.size ∧ "*R1".toList = '*' :: "R1".toList) ∧
    OperandErrorCases ∧ isDigitString "007".toList = true ∧
    ("R1".toList.head? ≠ some '*' ∧ isDigitString "R1".toList = false ∧ State.reset.reg "R1".toList = some none) ∧
    (([] : Text).head? ≠ some '*' ∧ isDigitString [] = false ∧ [] ∉ specialNames ∧ State.reset.reg [] = none) ∧
    ("-5".toList.head? ≠ some '*' ∧ isDigitString "-5".toList = false ∧ "-5".toList ∉ specialNames ∧
      State.reset.reg "-5".toList = none) ∧
    ("PC".toList.head? ≠ some '*' ∧ isDigitString "PC".toList = false ∧ State.reset.reg "PC".toList = none) :=
  ⟨by decide, operandErrorCases, by decide, by decide, by decide, by decide, by decide⟩

theorem witness_ImmediateIsDecimalValue : isDigitString "99999999999999999999".toList = true ∧
    State.reset.reg "-5".toList = none ∧ (Instr.load "-5".toList "1".toList).dest = "-5".toList := by decide

theorem witness_RegisterNamesAreNoOtherClass :
    gprNamesOk (State.reset.gpr.map Register.name) = true ∧ State.reset.reg "R4".toList = some none := by decide

theorem witness_SpecialRegistersCannotBeNamed :
    gprNamesOk (State.reset.gpr.map Register.name) = true ∧ (Instr.move "PC".toList "R1".toList).dest = "PC".toList ∧
    State.reset.reg "R1".toList = some none ∧ (Instr.load "R1".toList "PC".toList).src = "PC".toList ∧
    (Instr.load "R1".toList "PC".toList).opcode ≠ .move ∧ (Instr.move "R1".toList "PC".toList).src = "PC".toList ∧
    (Instr.load "R1".toList "*PC".toList).src = '*' :: "PC".toList := by decide

theorem witness_DestResolvesBeforeSrcBeforeDispatch :
    State.reset.reg (Instr.move "5".toList "*R9".toList).dest = none ∧ State.reset.reg "R1".toList = some none ∧
    resolveSrc .move State.reset "*R9".toList = .error (.unknownRegister "*R9".toList) :=
  ⟨by decide, by decide, rfl⟩

theorem witness_AbsentOperandExactlyWhenNeeded :
    State.reset.fault = none ∧ State.reset.reg "R1".toList = some none ∧ resolveSrc .add State.reset "0".toList = .ok (some 0) ∧
    resolveSrc .add State.reset "3".toList = .ok (some 3) ∧ resolveSrc .add State.reset [] = .ok none :=
  ⟨rfl, by decide, rfl, rfl, rfl⟩

theorem witness_ErrorsEachOpcodeCanRaise :
    State.reset.fault = none ∧
    (∃ t, exec (.store "R1".toList "16".toList) State.reset = .next t ∧
      t.fault = some ⟨.invalidAddress .dmem (some 16), 0, some .store⟩) ∧
    (∃ t, exec (.move "R1".toList "5".toList) State.reset = .next t ∧
      t.fault = some ⟨.unknownRegister "5".toList, 0, some .move⟩) ∧
    (∃ t, exec (.not "R1".toList []) State.reset = .next t ∧ t.fault = some ⟨.absentOperand, 0, some .not⟩) :=
  ⟨rfl, ⟨_, rfl, rfl⟩, ⟨_, rfl, rfl⟩, ⟨_, rfl, rfl⟩⟩

theorem witness_MemoryAccessesAreBoundsChecked :
    (0 < State.reset.imem.size ∧ 15 < State.reset.imem.size ∧ ¬ InRange State.reset.imem.size (some 16) ∧
      ¬ InRange State.reset.imem.size (some (-1))) ∧
    (0 < State.reset.dmem.size ∧ 15 < State.reset.dmem.size ∧ ¬ InRange State.reset.dmem.size (some 16) ∧
      ¬ InRange State.reset.dmem.size (some (-1)) ∧ ¬ InRange State.reset.dmem.size none) :=
  ⟨⟨by decide, by decide, not_inRange_16, not_inRange_minus_one⟩,
    ⟨by decide, by decide, not_inRange_16, not_inRange_minus_one, not_inRange_none⟩⟩

theorem witness_TokenizerFollowsGrammar :
    (" ,".toList.all isSep = true ∧
      (∀ p ∈ [("ADD".toList, "\t".toList), ("R1".toList, " ,, ".toList), ("R2".toList, [])],
        p.1 ≠ [] ∧ hasNoSep p.1 = true ∧ p.2.all isSep = true) ∧
      (∀ p ∈ [("ADD".toList, "\t".toList), ("R1".toList, " ,, ".toList), ("R2".toList, ([] : Text))].dropLast, p.2 ≠ [])) ∧
    "R1".toList ∈ tokenize "JP R1".toList := by decide

theorem witness_TokenCountDecidesDecoding :
    tokenize ",,,".toList = [] ∧ 3 < (tokenize "ADD R1 R2 R3".toList).length ∧
    tokenize "NOT".toList = [Opcode.not.mnemonic] ∧ tokenize "JP R1".toList = [Opcode.jp.mnemonic, "R1".toList] ∧
    tokenize "ADD R1, R2".toList = [Opcode.add.mnemonic, "R1".toList, "R2".toList] ∧
    gprNamesOk (State.reset.gpr.map Register.name) = true ∧ (Instr.not [] []).dest = [] := by decide

theorem witness_DecodeOfEncodeIsIdentity : (Instr.not [] []).wf = true ∧ (Instr.jp "R1".toList []).wf = true ∧
    (Instr.load "R1".toList "*R2".toList).wf = true := by decide

theorem witness_DecodedLinesAreWellFormed : decode " JP,R1 ".toList = .ok (.jp "R1".toList []) := by rfl

theorem witness_QuotientRoundsTowardMinusInfinity : (0 : Int) < 1 ∧ (-1 : Int) < 0 := by decide

theorem witness_LoaderStoresNonBlankLines :
    State.reset.loaded = false ∧ State.reset.started = false ∧
    ["LOAD R1, 5".toList, [], "ADD R1, R1".toList].filter (fun l => !isBlank l) = ["LOAD R1, 5".toList, "ADD R1, R1".toList] ∧
    ((List.replicate 16 "JP R1".toList).filter (fun l => !isBlank l)).length ≤ State.reset.imem.size ∧
    State.reset.imem.size < ((List.replicate 17 "JP R1".toList).filter (fun l => !isBlank l)).length := by decide

theorem witness_LoaderIsCalledOnceBeforeFirstStep :
    ({ State.reset with loaded := true } : State).loaded = true ∧ faulted.started = true ∧
    (∃ t, load ["JP R1".toList] State.reset = .ok t) ∧
    (∃ c t, load (List.replicate 17 "JP R1".toList) State.reset = .error c t) ∧ (∃ t, step running = .next t) :=
  ⟨rfl, by decide, ⟨_, rfl⟩, ⟨_, _, rfl⟩, ⟨_, rfl⟩⟩

theorem witness_PreloadWritesOneRegisterOrWord :
    State.reset.started = false ∧ State.reset.reg "R3".toList = some none ∧ State.reset.reg "R9".toList = none ∧
    0 < State.reset.dmem.size ∧ 15 < State.reset.dmem.size ∧ ¬ InRange State.reset.dmem.size (some 16) ∧
    ¬ InRange State.reset.dmem.size (some (-1)) :=
  ⟨rfl, by decide, by decide, by decide, by decide, not_inRange_16, not_inRange_minus_one⟩

/-- A core with a program of one line loaded, which aborts. -/
def oneLine : State :=
  { State.reset with imem := State.reset.imem.put 0 (some "ADD R1, R2".toList), k := 1, loaded := true }

theorem oneLine_loaded : ProgramLoaded oneLine := by
  refine ⟨by decide, fun a => ?_⟩
  cases a with
  | zero => simp [show (oneLine.imem.get 0).isSome = true by decide, show 0 < oneLine.k by decide]
  | succ a =>
    have h : oneLine.imem.get (a + 1) = none := by
      simp [oneLine, Memory.get, Memory.put, insertCell, State.reset, State.construct]
    simp [h, show oneLine.k = 1 by rfl]

theorem witness_NoInstructionExactlyPastProgram :
    (∃ t, load ["ADD R1, R2".toList] (State.construct Config.test) = .ok t) ∧
    (ProgramLoaded oneLine ∧ oneLine.fault = none ∧ ∃ t, run oneLine = .next t ∧
      t.fault = some ⟨.absentOperand, 0, some .add⟩) ∧
    (({ oneLine with pc := 1 } : State).k ≤ 1 ∧ 1 < oneLine.imem.size) :=
  ⟨⟨_, rfl⟩, ⟨oneLine_loaded, rfl, _, rfl, rfl⟩, by decide⟩

theorem witness_PackedPswExistsWithoutNone :
    (after "ADD R1, R2" (regs (some 5) (some 3) none none)).psw = flags (some false) (some false) (some false) (some false) ∧
    State.reset.psw.z = none := by decide

theorem witness_HostQueriesAnswerFromState :
    State.reset.reg "R1".toList = some none ∧ State.reset.reg "R9".toList = none ∧ 0 < State.reset.dmem.size ∧
    15 < State.reset.dmem.size ∧ ¬ InRange State.reset.dmem.size (some 16) ∧ ¬ InRange State.reset.dmem.size (some (-1)) :=
  ⟨by decide, by decide, by decide, by decide, not_inRange_16, not_inRange_minus_one⟩

end Sys2Proof.Tests
end

section
/-! PROOFS. The statements about the register names of spec 00_scope R12 and the integer operators of R16 and R17. -/

namespace Sys2Proof.Machine

/-! ### Register names -/

/-- What R12 asks of one name, taken apart. -/
theorem gprNameOk_iff (n : Text) : gprNameOk n = true ↔
    n ≠ [] ∧ isDigitString n = false ∧ n.head? ≠ some '*' ∧ hasNoSep n = true ∧ n ∉ specialNames := by
  simp [gprNameOk, and_assoc]

theorem mem_names_of_reg {s : State} {n : Text} {v : Val} (h : s.reg n = some v) : n ∈ s.gpr.map Register.name := by
  by_contra hn
  have hnone : s.reg n = none := (regAt_eq_none_iff s.gpr n).mpr hn
  simp [hnone] at h

/-- Where the names are as R12 asks, so is each name that reads as a register. -/
theorem gprNameOk_of_reg {s : State} {n : Text} {v : Val} (hok : gprNamesOk (s.gpr.map Register.name) = true)
    (h : s.reg n = some v) : gprNameOk n = true := by
  obtain ⟨-, hall⟩ := Bool.and_eq_true_iff.mp hok
  exact List.all_eq_true.mp hall n (mem_names_of_reg h)

/-- A register's name that is neither indirect nor immediate resolves to the register's value (spec 40_cycle R151). -/
theorem resolveToken_direct {s : State} {n : Text} {v : Val} (hstar : n.head? ≠ some '*') (hdigit : isDigitString n = false)
    (h : s.reg n = some v) : resolveToken s n = .ok v := by
  have hfile : regAt s.gpr n = some v := h
  have hclass : classifySrc s.gpr n = .direct n := by simp [classifySrc, hstar, hdigit, hfile]
  rw [resolveToken, hclass]
  exact lookupReg_ok.mpr h

/-- Settles O34: the name is in the file, so R12's constraints hold of it and leave only the class of a register in R104's order. -/
theorem registerNamesAreNoOtherClass : Obligations.RegisterNamesAreNoOtherClass := by
  intro s n v hok h
  obtain ⟨hne, hdigit, hstar, hsep, hspecial⟩ := (gprNameOk_iff n).mp (gprNameOk_of_reg hok h)
  refine ⟨hne, hstar, hdigit, hsep, fun op => ?_⟩
  rw [resolveSrc_generic (.inr hspecial)]
  exact resolveToken_direct hstar hdigit h

/-! ### The bits of an integer

Every integer is a natural or the complement of one (`Int.negSucc n` is `-n - 1`), so its bits are those of a natural or their
complements. -/

@[simp] theorem bitAt_natCast (n i : Nat) : bitAt (n : Int) i = n.testBit i := by
  have hquot : (n : Int).fdiv (2 ^ i) = ((n / 2 ^ i : Nat) : Int) := by
    rw [Int.fdiv_eq_ediv_of_nonneg _ (by positivity)]
    simp
  rw [bitAt, hquot, Nat.testBit_eq_decide_div_mod_eq, Bool.eq_iff_iff]
  simp only [beq_iff_eq, decide_eq_true_eq]
  omega

/-- Floor division by a power of two commutes with the complement, which changes the quotient's parity. -/
@[simp] theorem bitAt_negSucc (n i : Nat) : bitAt (.negSucc n) i = !n.testBit i := by
  have hquot : (Int.negSucc n).fdiv (2 ^ i) = -(((n / 2 ^ i : Nat) : Int) + 1) := by
    rw [Int.fdiv_eq_ediv_of_nonneg _ (by positivity), Int.negSucc_ediv _ (by positivity)]
    simp [← Int.div_def]
  rw [bitAt, hquot, Nat.testBit_eq_decide_div_mod_eq, Bool.eq_iff_iff]
  simp only [beq_iff_eq, Bool.not_eq_true', decide_eq_false_iff_not]
  omega

@[simp] theorem testBit_natAndNot (a b i : Nat) : (natAndNot a b).testBit i = (a.testBit i && !b.testBit i) := by
  rw [natAndNot, Nat.testBit_xor, Nat.testBit_and]
  cases a.testBit i <;> simp

theorem bitAt_bitAnd (a b : Int) (i : Nat) : bitAt (bitAnd a b) i = (bitAt a i && bitAt b i) := by
  cases a <;> cases b <;> simp [bitAnd, Bool.and_comm]

theorem bitAt_bitOr (a b : Int) (i : Nat) : bitAt (bitOr a b) i = (bitAt a i || bitAt b i) := by
  cases a <;> cases b <;> simp [bitOr, Bool.or_comm]

theorem bitAt_bitXor (a b : Int) (i : Nat) : bitAt (bitXor a b) i = (bitAt a i ^^ bitAt b i) := by
  cases a <;> cases b <;> simp [bitXor]

@[simp] theorem bitNot_natCast (n : Nat) : bitNot (n : Int) = .negSucc n := by
  rw [bitNot, Int.negSucc_eq]
  omega

@[simp] theorem bitNot_negSucc (n : Nat) : bitNot (.negSucc n) = n := by
  rw [bitNot, Int.negSucc_eq]
  omega

theorem bitAt_bitNot (b : Int) (i : Nat) : bitAt (bitNot b) i = !bitAt b i := by
  cases b <;> simp

/-- Settles O49, one lemma for each operator. -/
theorem bitwiseOperatorsActOnEveryBit : Obligations.BitwiseOperatorsActOnEveryBit := fun a b i =>
  ⟨bitAt_bitAnd a b i, bitAt_bitOr a b i, bitAt_bitXor a b i, bitAt_bitNot b i⟩

/-! ### The floor quotient -/

/-- For a positive divisor the remainder `a - b * floorDiv a b` is from 0 to `b - 1`. -/
theorem floorDiv_bounds_of_pos (a : Int) {b : Int} (hb : 0 < b) :
    b * floorDiv a b ≤ a ∧ a < b * (floorDiv a b + 1) := by
  have hsplit : b * floorDiv a b + a.fmod b = a := Int.mul_fdiv_add_fmod a b
  have hlow := Int.fmod_nonneg_of_pos a hb
  have hhigh := Int.fmod_lt_of_pos a hb
  rw [mul_add_one]
  omega

theorem floorDiv_neg_neg (a b : Int) : floorDiv (-a) (-b) = floorDiv a b :=
  Int.neg_fdiv_neg a b

/-- Settles O51: a negative divisor is the positive case of the negated operands, whose quotient is the same. -/
theorem quotientRoundsTowardMinusInfinity : Obligations.QuotientRoundsTowardMinusInfinity := by
  refine fun a b => ⟨floorDiv_bounds_of_pos a, fun hb => ?_⟩
  have hneg := floorDiv_bounds_of_pos (-a) (b := -b) (by omega)
  simpa only [floorDiv_neg_neg, neg_mul, neg_le_neg_iff, neg_lt_neg_iff] using hneg

end Sys2Proof.Machine
end

section
/-! PROOFS. The statements about the elements of the state: which influence nothing, which no operand names, what construction gives
them, and the packed flags (spec 10_state R34, R43, R45, R53, R54). -/

namespace Sys2Proof.Machine

/-! ### What no computation may depend on

Every operation on a state commutes with `State.forgetObserved` or writes only what it forgets; every read answers the same without
the forgotten elements. -/

section forgetObserved
variable (s : State)

@[simp] theorem State.forgetObserved_idem : s.forgetObserved.forgetObserved = s.forgetObserved := rfl

@[simp] theorem State.forgetObserved_setReg (n : Text) (v : Val) :
    (s.setReg n v).forgetObserved = s.forgetObserved.setReg n v := rfl

@[simp] theorem State.forgetObserved_withDmem (m : Memory Int) :
    (s.withDmem m).forgetObserved = s.forgetObserved.withDmem m := rfl

@[simp] theorem State.forgetObserved_latchVector (v : ControlVector) :
    (s.latchVector v).forgetObserved = s.forgetObserved := rfl

@[simp] theorem State.forgetObserved_latchAlu (f : AluOp) (x y : Val) (r : AluResult) :
    (s.latchAlu f x y r).forgetObserved = s.forgetObserved := rfl

/-- Of what FETCH and DECODE latch, the increment of PC alone is not forgotten. -/
@[simp] theorem State.forgetObserved_latchLine (line : Text) :
    (s.latchLine line).forgetObserved = { s.forgetObserved with pc := s.forgetObserved.pc + 1 } := rfl

@[simp] theorem State.fault_forgetObserved : s.forgetObserved.fault = s.fault := rfl

@[simp] theorem State.pc_forgetObserved : s.forgetObserved.pc = s.pc := rfl

@[simp] theorem State.dmem_forgetObserved : s.forgetObserved.dmem = s.dmem := rfl

@[simp] theorem lookupReg_forgetObserved (n shown : Text) : lookupReg s.forgetObserved n shown = lookupReg s n shown := rfl

@[simp] theorem resolveDest_forgetObserved (d : Text) : resolveDest s.forgetObserved d = resolveDest s d := rfl

@[simp] theorem resolveSrc_forgetObserved (op : Opcode) (t : Text) : resolveSrc op s.forgetObserved t = resolveSrc op s t := rfl

@[simp] theorem fetchLine_forgetObserved : fetchLine s.forgetObserved = fetchLine s := rfl

end forgetObserved

/-- An answer without what no computation may depend on in its next state. -/
def forgetInAnswer : Result → Result
  | .next t => .next t.forgetObserved
  | .fault e => .fault e
  | .refused r => .refused r

@[simp] theorem forgetInAnswer_next (t : State) : forgetInAnswer (.next t) = .next t.forgetObserved := rfl

@[simp] theorem forgetInAnswer_raiseAt (s : State) (a : Nat) (op : Option Opcode) (c : Cause) :
    forgetInAnswer (raiseAt s a op c) = raiseAt s.forgetObserved a op c := rfl

@[simp] theorem forgetInAnswer_raiseIn (s : State) (op : Opcode) (c : Cause) :
    forgetInAnswer (raiseIn s op c) = raiseIn s.forgetObserved op c := rfl

/-- An answer that agrees with a next state has a next state itself. -/
theorem next_of_forgetInAnswer_eq {r : Result} {t : State} (h : forgetInAnswer (.next t) = forgetInAnswer r) :
    ∃ t', r = .next t' ∧ t.forgetObserved = t'.forgetObserved := by
  cases r with
  | next t' => exact ⟨t', rfl, by simpa using h⟩
  | fault e => simp [forgetInAnswer] at h
  | refused q => simp [forgetInAnswer] at h

/-- Noninterference of a part of a step: on states that differ only in what `State.forgetObserved` forgets, its answers differ only
in that. -/
def Noninterfering (p : State → Result) : Prop :=
  ∀ {s s' : State}, s.forgetObserved = s'.forgetObserved → forgetInAnswer (p s) = forgetInAnswer (p s')

/-- It is enough to compare each state with itself forgotten. -/
theorem noninterfering_of_forgetObserved {p : State → Result}
    (h : ∀ s, forgetInAnswer (p s.forgetObserved) = forgetInAnswer (p s)) : Noninterfering p := by
  intro s s' hss
  rw [← h s, hss, h s']

theorem noninterfering_aluPath (f : AluOp) (d : Text) (x y : Val) : Noninterfering (aluPath f d x y) := by
  refine noninterfering_of_forgetObserved fun s => ?_
  unfold aluPath
  split <;> simp

theorem noninterfering_loadPath (d : Text) (y : Val) : Noninterfering (loadPath d y) :=
  noninterfering_of_forgetObserved fun s => by simp [loadPath]

theorem noninterfering_storePath (op : Opcode) (x y : Val) : Noninterfering (storePath op x y) := by
  refine noninterfering_of_forgetObserved fun s => ?_
  unfold storePath
  rw [s.dmem_forgetObserved]
  cases dmemWrite s.dmem y x <;> simp

theorem noninterfering_movePath (op : Opcode) (d src : Text) : Noninterfering (movePath op d src) := by
  refine noninterfering_of_forgetObserved fun s => ?_
  unfold movePath
  rw [lookupReg_forgetObserved]
  cases lookupReg s src src <;> simp

/-- DISPATCH latches a vector that the opcode alone gives, and takes one of the four paths. -/
theorem noninterfering_dispatch (op : Opcode) (d src : Text) (x y : Val) : Noninterfering (dispatch op d src x y) := by
  intro s s' hss
  rcases opcode_cases op with ⟨f, rfl⟩ | rfl | rfl | rfl
  · rw [dispatch_alu, dispatch_alu]
    exact noninterfering_aluPath f d x y hss
  · exact noninterfering_loadPath d y hss
  · exact noninterfering_storePath .store x y hss
  · exact noninterfering_movePath .move d src hss

/-- Operand resolution reads the registers and the data memory alone, so both states raise one error or reach DISPATCH with the same
operands. -/
theorem noninterfering_runInstr (op : Opcode) (d src : Text) : Noninterfering (runInstr op d src) := by
  refine noninterfering_of_forgetObserved fun s => ?_
  unfold runInstr
  rw [resolveDest_forgetObserved, resolveSrc_forgetObserved]
  cases resolveDest s d with
  | error c => simp
  | ok x =>
    cases resolveSrc op s src with
    | error c => simp
    | ok y => exact noninterfering_dispatch op d src x y s.forgetObserved_idem

theorem noninterfering_exec_latchLine (i : Instr) (line : Text) : Noninterfering (fun s => exec i (s.latchLine line)) := by
  intro s s' hss
  simp only [exec_eq_runInstr]
  exact noninterfering_runInstr i.opcode i.dest i.src (by simp [hss])

/-- FETCH reads PC and the instruction memory alone, so both states run one instruction or raise one error. -/
theorem noninterfering_step : Noninterfering step := by
  refine noninterfering_of_forgetObserved fun s => ?_
  unfold step
  rw [s.fault_forgetObserved, fetchLine_forgetObserved]
  cases s.fault with
  | some e => rfl
  | none =>
    cases fetchLine s with
    | error c => simp
    | ok line =>
      cases hdecode : decode line with
      | error e => simp [hdecode]
      | ok i => simpa only [hdecode] using noninterfering_exec_latchLine i line s.forgetObserved_idem

/-- Settles O12: a step does not interfere, phase by phase. -/
theorem observedLatchesInfluenceNothing : Obligations.ObservedLatchesInfluenceNothing := by
  intro s s' t hss hstep
  have hanswers := noninterfering_step hss
  rw [hstep] at hanswers
  exact next_of_forgetInAnswer_eq hanswers

/-! ### The names of the special registers -/

/-- R12 keeps the names of the special registers out of the register file. -/
theorem reg_special {s : State} {n : Text} (hok : gprNamesOk (s.gpr.map Register.name) = true) (hn : n ∈ specialNames) :
    s.reg n = none := by
  cases h : s.reg n with
  | none => rfl
  | some v =>
    obtain ⟨-, -, -, -, hnot⟩ := (gprNameOk_iff n).mp (gprNameOk_of_reg hok h)
    exact absurd hn hnot

theorem mem_specialNames_iff {n : Text} :
    n ∈ specialNames ↔ n = "PC".toList ∨ n = "MAR".toList ∨ n = "IR".toList ∨ n = "MBR".toList := by
  simp [specialNames]

theorem special_head_ne_star {n : Text} (hn : n ∈ specialNames) : n.head? ≠ some '*' := by
  revert n
  decide

theorem special_not_digits {n : Text} (hn : n ∈ specialNames) : isDigitString n = false := by
  revert n
  decide

/-- A token of no other class has no value (spec 40_cycle R152). -/
theorem resolveToken_noValue {s : State} {t : Text} (hstar : t.head? ≠ some '*') (hdigit : isDigitString t = false)
    (h : s.reg t = none) : resolveToken s t = .ok none := by
  have hfile : regAt s.gpr t = none := h
  have hclass : classifySrc s.gpr t = .noValue := by simp [classifySrc, hstar, hdigit, hfile]
  rw [resolveToken, hclass]

theorem resolveSrc_star_unknown (op : Opcode) {s : State} {r : Text} (h : s.reg r = none) :
    resolveSrc op s ('*' :: r) = .error (.unknownRegister ('*' :: r)) := by
  rw [resolveSrc_star, resolveIndirect, lookupReg_error.mpr ⟨h, rfl⟩]

/-- A dest that is no register ends the cycle in RESOLVE (spec 40_cycle R147). -/
theorem abortsInResolve_of_dest {i : Instr} {s : State} (h : s.reg i.dest = none) :
    AbortsInResolve i s (.unknownRegister i.dest) := by
  rw [AbortsInResolve, exec_eq_runInstr, runInstr, resolveDest_error.mpr ⟨h, rfl⟩]
  rfl

/-- A src that does not resolve ends the cycle in RESOLVE, after dest (spec 40_cycle R146). -/
theorem abortsInResolve_of_src {i : Instr} {s : State} {x : Val} {c : Cause} (hdest : s.reg i.dest = some x)
    (hsrc : resolveSrc i.opcode s i.src = .error c) : AbortsInResolve i s c := by
  rw [AbortsInResolve, exec_eq_runInstr, runInstr, resolveDest_ok.mpr hdest]
  simp only [hsrc]
  rfl

/-- MOVE's src has to be a register's name, which its path finds out in DISPATCH (spec 44_data R262). -/
theorem abortsInDispatch_of_move_src {i : Instr} {s : State} {x y : Val} (hop : i.opcode = .move)
    (hdest : s.reg i.dest = some x) (hsrc : resolveSrc .move s i.src = .ok y) (hreg : s.reg i.src = none) :
    AbortsInDispatch i s (.unknownRegister i.src) := by
  have hlook : lookupReg (s.latchVector (generate .move)) i.src i.src = .error (.unknownRegister i.src) :=
    lookupReg_error.mpr ⟨hreg, rfl⟩
  rw [AbortsInDispatch, exec_eq_runInstr, hop, runInstr_resolved hdest hsrc, dispatch_move, movePath, hlook]
  rfl

/-- Settles O35: no register has the name, so every look-up of it fails; under MOVE the token first resolves to NONE. -/
theorem specialRegistersCannotBeNamed : Obligations.SpecialRegistersCannotBeNamed := by
  intro s n hok hname
  have hn : n ∈ specialNames := mem_specialNames_iff.mpr hname
  have hreg : s.reg n = none := reg_special hok hn
  refine ⟨?asDest, ?asSrc, ?behindStar⟩
  case asDest =>
    rintro i rfl
    exact abortsInResolve_of_dest hreg
  case asSrc =>
    rintro i x hdest rfl
    split_ifs with hop
    · have hsrc : resolveSrc .move s i.src = .ok none := by
        rw [resolveSrc_generic (.inl rfl)]
        exact resolveToken_noValue (special_head_ne_star hn) (special_not_digits hn) hreg
      exact abortsInDispatch_of_move_src hop hdest hsrc hreg
    · exact abortsInResolve_of_src hdest (resolveSrc_special hop hn hreg)
  case behindStar =>
    intro i x hdest hsrc
    exact abortsInResolve_of_src hdest (by rw [hsrc, resolveSrc_star_unknown i.opcode hreg])

/-! ### Construction -/

/-- The registers of a core just constructed are those of its names, each NONE. -/
theorem construct_reg (c : Config) (n : Text) : (State.construct c).reg n = if n ∈ c.gprNames then some none else none := by
  show regAt (c.gprNames.map fun m => { name := m, val := none }) n = _
  induction c.gprNames with
  | nil => simp
  | cons m ms ih =>
    rw [List.map_cons, regAt_cons, ih]
    by_cases h : m = n
    · simp [h]
    · simp [h, Ne.symm h]

theorem construct_config (c : Config) : (State.construct c).config = c := by
  simp [State.config, State.construct, Function.comp_def]

/-- Before the first step the host may preload every register, which then holds the value (spec 70_reset R316). -/
theorem preloadRegister_register {s : State} {n : Text} {w : Val} (v : Val) (hstart : s.started = false) (hreg : s.reg n = some w) :
    ∃ t, preloadRegister n v s = .ok t ∧ t.reg n = some v := by
  refine ⟨s.setReg n v, ?_, regAt_setRegAt_same hreg⟩
  simp [preloadRegister, hstart, lookupReg_ok.mpr hreg]

/-- Before the first step the host may preload every data word, which then holds the value (spec 70_reset R316). -/
theorem preloadData_word {s : State} {a : Nat} (v : Val) (hstart : s.started = false) (ha : a < s.dmem.size) :
    ∃ t, preloadData a v s = .ok t ∧ t.dmem.get a = v := by
  refine ⟨s.withDmem (s.dmem.put a v), ?_, Memory.get_put_same ..⟩
  simp [preloadData, hstart, dmemWrite_ok.mpr ⟨a, rfl, ha, rfl⟩]

/-- Settles O1: the registers by `construct_reg`, the preloads because no step has started; the rest is read off the construction. -/
theorem constructedCoreHasResetValues : Obligations.ConstructedCoreHasResetValues := by
  intro c
  have hreg : ∀ n ∈ c.gprNames, (State.construct c).reg n = some none := fun n hn => by simp [construct_reg, hn]
  have hnoReg : ∀ n, n ∉ c.gprNames → (State.construct c).reg n = none := fun n hn => by simp [construct_reg, hn]
  exact ⟨rfl, hreg, hnoReg, rfl, rfl, rfl, rfl, rfl, rfl, rfl, fun _ => rfl, fun _ => rfl, rfl, rfl, construct_config c,
    fun n hn v => preloadRegister_register v rfl (hreg n hn), fun _ ha v => preloadData_word v rfl ha⟩

/-! ### The packed flags -/

/-- The packed view of four flags that are written has them as its bits, Z lowest (spec 10_state R43). -/
theorem packPsw_written (z c n o : Bool) : ∃ w, packPsw { z := some z, c := some c, s := some n, o := some o } = some w ∧
    w.getLsbD 0 = z ∧ w.getLsbD 1 = c ∧ w.getLsbD 2 = n ∧ w.getLsbD 3 = o :=
  ⟨_, rfl, by simp only [BitVec.getLsbD_append]; simp⟩

theorem packPsw_eq_none {p : Psw} (h : p.z = none ∨ p.c = none ∨ p.s = none ∨ p.o = none) : packPsw p = none := by
  unfold packPsw
  split
  case h_1 hz hc hn ho => simp [hz, hc, hn, ho] at h
  case h_2 => rfl

/-- Settles O58: the query packs the four flags of the state. -/
theorem packedPswExistsWithoutNone : Obligations.PackedPswExistsWithoutNone := by
  refine ⟨fun s z c n o hpsw => ?_, fun s hnone => packPsw_eq_none hnone⟩
  rw [packedPsw, hpsw]
  exact packPsw_written z c n o

end Sys2Proof.Machine
end

section
/-! PROOFS. The statements about the two memories: the bounds-checked accesses, which instruction changes what, and what a LOAD reads
back (spec 20_memory R71 to R77, R87, R89). -/

namespace Sys2Proof.Machine

/-! ### The accesses -/

/-- An address in range is a natural below the size, as the laws of the accesses have it. -/
theorem inRange_iff {size : Nat} {a : Val} : InRange size a ↔ ∃ i : Nat, a = some (i : Int) ∧ i < size := by
  constructor
  · rintro ⟨x, rfl, hx, hlt⟩
    obtain ⟨i, rfl⟩ := Int.eq_ofNat_of_zero_le hx
    exact ⟨i, rfl, by omega⟩
  · rintro ⟨i, rfl, hi⟩
    exact ⟨i, rfl, by omega, by omega⟩

/-- A write at an index is read back there, changes no other cell and no size. -/
theorem Memory.put_readBack {α : Type} (m : Memory α) (i : Nat) (v : Option α) :
    (m.put i v).size = m.size ∧ (m.put i v).get i = v ∧ ∀ j, j ≠ i → (m.put i v).get j = m.get j :=
  ⟨m.put_size i v, m.get_put_same i v, fun _ hj => Memory.get_put_other hj⟩

/-- `IMemWrite` raises InvalidAddress for every address out of range (spec 20_memory R72, R75). -/
theorem imemWrite_error {m : Memory Text} {a : Int} {line : Text} {c : Cause} :
    imemWrite m a line = .error c ↔ c = .invalidAddress .imem (some a) ∧ ¬ InRange m.size (some a) := by
  rw [inRange_iff, ← checkAddress_error, imemWrite]
  cases checkAddress .imem m.size (some a) <;> simp

/-- Settles O39: each access by its law, what a write leaves by `Memory.put_readBack`. -/
theorem memoryAccessesAreBoundsChecked : Obligations.MemoryAccessesAreBoundsChecked := by
  refine ⟨fun m a => ⟨?slotInRange, ?slotOutOfRange⟩, fun m a => ⟨?wordInRange, ?wordOutOfRange⟩⟩
  case slotInRange =>
    rintro i rfl hi
    exact ⟨imemRead_ok.mpr ⟨i, rfl, hi, rfl⟩,
      fun line => ⟨_, imemWrite_ok.mpr ⟨i, rfl, hi, rfl⟩, m.put_readBack i (some line)⟩⟩
  case slotOutOfRange =>
    intro hout
    have hnone : ¬ ∃ i : Nat, a = i ∧ i < m.size := fun ⟨i, ha, hi⟩ => hout (inRange_iff.mpr ⟨i, by rw [ha], hi⟩)
    exact ⟨imemRead_error.mpr ⟨rfl, hnone⟩, fun _ => imemWrite_error.mpr ⟨rfl, hout⟩⟩
  case wordInRange =>
    rintro i rfl hi
    exact ⟨dmemRead_ok.mpr ⟨i, rfl, hi, rfl⟩, fun v => ⟨_, dmemWrite_ok.mpr ⟨i, rfl, hi, rfl⟩, m.put_readBack i v⟩⟩
  case wordOutOfRange =>
    intro hout
    rw [inRange_iff] at hout
    exact ⟨dmemRead_error.mpr ⟨rfl, hout⟩, fun _ => dmemWrite_error.mpr ⟨rfl, hout⟩⟩

/-! ### What an instruction and a step change -/

/-- What no cycle changes: the program, the register names and the memory sizes (spec 20_memory R77). -/
structure ProgramKept (s t : State) : Prop where
  imem : t.imem = s.imem
  k : t.k = s.k
  config : t.config = s.config

/-- An instruction keeps the program, and data memory too unless it is a STORE, which writes its one word. -/
theorem exec_memories {i : Instr} {s t : State} (h : exec i s = .next t) :
    ProgramKept s t ∧ (t.dmem = s.dmem ∨ ∃ (a : Nat) (v : Val), StoresTo a i s ∧ t.dmem = s.dmem.put a v) := by
  have hanswer := exec_answer i s
  rw [h] at hanswer
  cases hanswer
  case store x a hop hdest hsrc ha =>
    exact ⟨⟨rfl, rfl, by simp [State.config]⟩, .inr ⟨a, x, ⟨hop, hop ▸ hsrc⟩, rfl⟩⟩
  all_goals -- an abort, or the write of a register
    exact ⟨⟨rfl, rfl, by simp [State.config]⟩, .inl rfl⟩

theorem eq_store_of_opcode {i : Instr} (h : i.opcode = .store) : i = .store i.dest i.src := by
  cases i with
  | store => rfl
  | _ => cases h

/-- A step keeps the program, and data memory too unless the line at PC is a STORE. -/
theorem step_memories {s t : State} (h : step s = .next t) :
    ProgramKept s t ∧ (t.dmem = s.dmem ∨ ∃ line d src, s.imem.get s.pc = some line ∧ decode line = .ok (.store d src)) := by
  have hanswer := step_answer s
  generalize step s = r at h hanswer
  cases hanswer
  case stuck => cases h
  case noFetch => cases h; exact ⟨⟨rfl, rfl, rfl⟩, .inl rfl⟩
  case noInstr => cases h; exact ⟨⟨rfl, rfl, rfl⟩, .inl rfl⟩
  case ran line i _ hline hi =>
    obtain ⟨⟨himem, hk, hconfig⟩, hdmem⟩ := exec_memories h
    refine ⟨⟨himem, hk, hconfig⟩, hdmem.imp_right ?_⟩
    rintro ⟨a, v, ⟨hop, -⟩, -⟩
    exact ⟨line, i.dest, i.src, (fetchLine_ok.mp hline).2, eq_store_of_opcode hop ▸ hi⟩

/-- Settles O31: of the answers of a step only that of a STORE touches data memory, and none touches the program. -/
theorem onlyStoreChangesMemory : Obligations.OnlyStoreChangesMemory := by
  intro s t hstep
  obtain ⟨⟨himem, hk, hconfig⟩, hdmem⟩ := step_memories hstep
  exact ⟨himem, hk, hconfig, hdmem.resolve_left⟩

/-! ### A word from its STORE to a LOAD -/

/-- An instruction that is no STORE to a word leaves it as it is, and in range if it was. -/
theorem exec_keeps_word {a : Nat} {i : Instr} {s t : State} (hno : ¬ StoresTo a i s) (h : exec i s = .next t) :
    t.dmem.size = s.dmem.size ∧ t.dmem.get a = s.dmem.get a := by
  obtain ⟨-, hsame | ⟨b, v, hstore, hput⟩⟩ := exec_memories h
  · simp [hsame]
  · have hab : a ≠ b := fun heq => hno (heq ▸ hstore)
    rw [hput]
    exact ⟨Memory.put_size .., Memory.get_put_other hab⟩

theorem reaches_keeps_word {a : Nat} {between : List Instr} {s u : State} (h : ReachesWithoutStoreTo a between s u) :
    u.dmem.size = s.dmem.size ∧ u.dmem.get a = s.dmem.get a := by
  induction between generalizing s with
  | nil => cases h; exact ⟨rfl, rfl⟩
  | cons i rest ih =>
    obtain ⟨hno, t, hexec, hrest⟩ := h
    obtain ⟨hsize, hword⟩ := exec_keeps_word hno hexec
    obtain ⟨hsize', hword'⟩ := ih hrest
    exact ⟨hsize'.trans hsize, hword'.trans hword⟩

/-- A STORE to an address in range writes the datum there (spec 44_data R261). -/
theorem exec_store_inRange {s : State} {d src : Text} {v : Val} {a : Nat} (hdest : s.reg d = some v)
    (hsrc : resolveSrc .store s src = .ok (some (a : Int))) (ha : a < s.dmem.size) :
    exec (.store d src) s = .next ((s.latchVector (generate .store)).withDmem (s.dmem.put a v)) := by
  have hwrite : dmemWrite (s.latchVector (generate .store)).dmem (some (a : Int)) v = .ok (s.dmem.put a v) :=
    dmemWrite_ok.mpr ⟨a, rfl, ha, rfl⟩
  rw [exec_eq_runInstr]
  exact (runInstr_resolved hdest hsrc).trans (by rw [dispatch_store, storePath, hwrite])

/-- A LOAD writes what its src resolves to into its register (spec 44_data R260). -/
theorem exec_load_resolved {s : State} {d src : Text} {x y : Val} (hdest : s.reg d = some x)
    (hsrc : resolveSrc .load s src = .ok y) :
    exec (.load d src) s = .next ((s.latchVector (generate .load)).setReg d y) := by
  rw [exec_eq_runInstr]
  exact runInstr_resolved hdest hsrc

/-- `*R` resolves to the word at the address that R holds (spec 40_cycle R149). -/
theorem resolveSrc_star_word (op : Opcode) {s : State} {r : Text} {a : Nat} (hreg : s.reg r = some (some (a : Int)))
    (ha : a < s.dmem.size) : resolveSrc op s ('*' :: r) = .ok (s.dmem.get a) := by
  rw [resolveSrc_star, resolveIndirect, lookupReg_ok.mpr hreg]
  exact dmemRead_ok.mpr ⟨a, rfl, ha, rfl⟩

/-- Settles O14: the STORE leaves `v` in the word, the instructions in between keep the word, and the LOAD resolves to it. -/
theorem storeThenLoadRoundTrip : Obligations.StoreThenLoadRoundTrip := by
  intro s ra src v a hdatum haddress ha
  refine ⟨_, exec_store_inRange hdatum haddress ha, fun between u hreach rb rc w hrb hrc => ?_⟩
  obtain ⟨hsize, hword⟩ := reaches_keeps_word hreach
  have hinRange : a < u.dmem.size := by simpa [hsize] using ha
  have hvalue : u.dmem.get a = v := hword.trans (Memory.get_put_same s.dmem a v)
  have hsrc : resolveSrc .load u ('*' :: rc) = .ok v := hvalue ▸ resolveSrc_star_word .load hrc hinRange
  exact ⟨_, exec_load_resolved hrb hsrc, regAt_setRegAt_same hrb⟩

end Sys2Proof.Machine
end

section
/-! PROOFS. The statements about the tokens of a line and the mnemonics (spec 30_encoding R102, R107). -/

namespace Sys2Proof

open Machine

/-! ### The tokenizer -/

theorem isSep_iff (c : Char) : isSep c = true ↔ c ∈ [',', ' ', '\t', '\r', '\n', '\x0b', '\x0c'] := by
  simp [isSep, isAsciiSpace, or_assoc]

theorem mem_consToken_iff {u t : Text} {ts : List Text} : u ∈ consToken t ts ↔ u = t ∧ t ≠ [] ∨ u ∈ ts := by
  by_cases h : t = []
  · simp [h]
  · simp [consToken_of_ne_nil ts h, h]

/-- What R102 asks of a token: it is not empty and holds no separator. -/
def IsToken (t : Text) : Prop :=
  t ≠ [] ∧ hasNoSep t = true

/-- Where the text in front holds no separator and the texts behind it are tokens, `consToken` makes tokens only. -/
theorem isToken_of_mem_consToken {u t : Text} {ts : List Text} (ht : hasNoSep t = true) (hts : ∀ v ∈ ts, IsToken v)
    (hu : u ∈ consToken t ts) : IsToken u := by
  rcases mem_consToken_iff.mp hu with ⟨rfl, hne⟩ | hu
  · exact ⟨hne, ht⟩
  · exact hts u hu

/-- The text cut off the front of a line holds no separator, and what comes behind it are tokens. -/
theorem splitTokens_tokens (line : Text) :
    hasNoSep (splitTokens line).1 = true ∧ ∀ u ∈ (splitTokens line).2, IsToken u := by
  induction line with
  | nil => simp [splitTokens, hasNoSep]
  | cons c cs ih =>
    obtain ⟨hfront, hbehind⟩ := ih
    by_cases hc : isSep c = true
    · rw [splitTokens_sep cs hc]
      exact ⟨rfl, fun u hu => isToken_of_mem_consToken hfront hbehind hu⟩
    · rw [splitTokens, if_neg hc]
      refine ⟨?_, hbehind⟩
      rw [hasNoSep, List.all_cons, Bool.and_eq_true]
      exact ⟨by simpa using hc, hfront⟩

theorem isToken_of_mem_tokenize {line u : Text} (h : u ∈ tokenize line) : IsToken u := by
  obtain ⟨hfront, hbehind⟩ := splitTokens_tokens line
  exact isToken_of_mem_consToken hfront hbehind h

/-- Tokens, each followed by separators, of which only the last may have none: the line has just these tokens. -/
theorem tokenize_parts {parts : List (Text × Text)}
    (htokens : ∀ p ∈ parts, p.1 ≠ [] ∧ hasNoSep p.1 = true ∧ p.2.all isSep = true)
    (hseparated : ∀ p ∈ parts.dropLast, p.2 ≠ []) :
    tokenize (parts.flatMap fun p => p.1 ++ p.2) = parts.map Prod.fst := by
  induction parts with
  | nil => rfl
  | cons p rest ih =>
    obtain ⟨token, seps⟩ := p
    obtain ⟨⟨hne, hnoSep, hseps⟩, hrest⟩ := List.forall_mem_cons.mp htokens
    rw [List.flatMap_cons, List.map_cons, List.append_assoc]
    cases seps with
    | nil =>
      have hlast : rest = [] := by
        by_contra hmore
        exact hseparated (token, []) (by simp [List.dropLast_cons_of_ne_nil hmore]) rfl
      subst hlast
      simpa using tokenize_token hne hnoSep
    | cons c cs =>
      obtain ⟨hc, hcs⟩ := Bool.and_eq_true_iff.mp hseps
      have hseparatedRest : ∀ q ∈ rest.dropLast, q.2 ≠ [] := fun q hq =>
        hseparated q (by
          have hmore : rest ≠ [] := by rintro rfl; simp at hq
          simp [List.dropLast_cons_of_ne_nil hmore, hq])
      rw [List.cons_append, tokenize_token_sep _ hne hnoSep hc, tokenize_append_seps _ hcs, ih hrest hseparatedRest]

/-- Settles O41: separators in front change nothing, and the tokens behind them are those of `tokenize_parts`. -/
theorem tokenizerFollowsGrammar : Obligations.TokenizerFollowsGrammar := by
  refine ⟨isSep_iff, fun lead parts hlead htokens hseparated => ?_, fun line t => isToken_of_mem_tokenize⟩
  rw [tokenize_append_seps _ hlead, tokenize_parts htokens hseparated]

/-! ### The mnemonics -/

/-- The search answers an opcode whose mnemonic the token is, and finds every mnemonic's own opcode. -/
theorem opcodeOfMnemonic_eq_some_iff {t : Text} {op : Opcode} : opcodeOfMnemonic t = some op ↔ t = op.mnemonic := by
  constructor
  · intro h
    have hfound : (op.mnemonic == t) = true := List.find?_some (p := fun o : Opcode => o.mnemonic == t) h
    exact (beq_iff_eq.mp hfound).symm
  · rintro rfl
    exact opcodeOfMnemonic_mnemonic op

theorem mem_opcodes (op : Opcode) : op ∈ Opcode.all := by
  cases op <;> decide

/-- Settles O43. -/
theorem mnemonicsRecognisedExactly : Obligations.MnemonicsRecognisedExactly :=
  ⟨fun _ _ => opcodeOfMnemonic_eq_some_iff, rfl, mem_opcodes⟩

end Sys2Proof
end

section
/-! PROOFS. The statements about the number of tokens, the immediates and the control vectors (spec 30_encoding R103, R106, R112, R119,
R120). -/

namespace Sys2Proof.Machine

/-! ### The number of tokens -/

theorem classifyTokens_mnemonic (op : Opcode) (d src : Text) : classifyTokens op.mnemonic d src = .ok (op.instr d src) := by
  rw [classifyTokens, opcodeOfMnemonic_mnemonic]

theorem decode_noTokens {line : Text} (h : tokenize line = []) : decode line = .error (.malformed line) := by
  rw [decode, h]

theorem decode_tooManyTokens {line : Text} (h : 3 < (tokenize line).length) : decode line = .error (.malformed line) := by
  unfold decode
  split
  case h_1 heq | h_2 heq | h_3 heq => simp [heq] at h
  case h_4 => rfl

theorem decode_mnemonic {line : Text} {op : Opcode} (h : tokenize line = [op.mnemonic]) :
    decode line = .ok (op.instr [] []) := by
  rw [decode, h]
  exact classifyTokens_mnemonic op [] []

theorem decode_mnemonic_dest {line d : Text} {op : Opcode} (h : tokenize line = [op.mnemonic, d]) :
    decode line = .ok (op.instr d []) := by
  rw [decode, h]
  exact classifyTokens_mnemonic op d []

theorem decode_mnemonic_dest_src {line d src : Text} {op : Opcode} (h : tokenize line = [op.mnemonic, d, src]) :
    decode line = .ok (op.instr d src) := by
  rw [decode, h]
  exact classifyTokens_mnemonic op d src

/-- R12 asks every register for a name that is not empty. -/
theorem reg_nil {s : State} (hok : gprNamesOk (s.gpr.map Register.name) = true) : s.reg [] = none := by
  by_contra h
  obtain ⟨v, hv⟩ := Option.ne_none_iff_exists'.mp h
  obtain ⟨hne, -⟩ := (gprNameOk_iff []).mp (gprNameOk_of_reg hok hv)
  exact hne rfl

/-- A token of no class that is no special register's name is NONE as src, under every opcode (spec 40_cycle R152). -/
theorem resolveSrc_noValue (op : Opcode) {s : State} {t : Text} (hstar : t.head? ≠ some '*') (hdigit : isDigitString t = false)
    (hspecial : t ∉ specialNames) (h : s.reg t = none) : resolveSrc op s t = .ok none := by
  rw [resolveSrc_generic (.inr hspecial), resolveToken_noValue hstar hdigit h]

/-- Settles O42: a decoder lemma for each number of tokens; the empty text is no register and of no class of src. -/
theorem tokenCountDecidesDecoding : Obligations.TokenCountDecidesDecoding := by
  refine ⟨fun line => ⟨?malformed, fun _ => decode_mnemonic, fun _ _ => decode_mnemonic_dest,
    fun _ _ _ => decode_mnemonic_dest_src⟩, fun s hok => ⟨reg_nil hok, ?emptySrc, ?emptyDest⟩⟩
  case malformed =>
    rintro (hnone | hmany)
    · exact decode_noTokens hnone
    · exact decode_tooManyTokens hmany
  case emptySrc =>
    exact fun op => resolveSrc_noValue op (by decide) (by decide) (by decide) (reg_nil hok)
  case emptyDest =>
    intro i hdest
    have habort := abortsInResolve_of_dest (i := i) (s := s) (by rw [hdest, reg_nil hok])
    rwa [hdest] at habort

/-! ### Immediates -/

/-- Reading on after the number `n`, each further digit moves `n` one decimal place up. -/
theorem foldl_digits (t : Text) (n : Nat) :
    t.foldl (fun n c => 10 * n + digitValue c) n = n * 10 ^ t.length + decimal t := by
  induction t generalizing n with
  | nil => simp [decimal]
  | cons c t ih =>
    rw [decimal, List.foldl_cons, List.foldl_cons, ih, ih, List.length_cons]
    ring

theorem decimal_cons (c : Char) (t : Text) : decimal (c :: t) = digitValue c * 10 ^ t.length + decimal t := by
  rw [decimal, List.foldl_cons, foldl_digits, mul_zero, zero_add]

/-- The value of a digit string is the sum of its digits times powers of ten, the first digit the highest. -/
theorem decimal_eq_sum (t : Text) : decimal t =
    ((List.range t.length).map fun i => digitValue (t.getD i '0') * 10 ^ (t.length - 1 - i)).sum := by
  induction t with
  | nil => rfl
  | cons c t ih =>
    simp [decimal_cons, ih, List.range_succ_eq_map, Function.comp_def, Nat.sub_sub, Nat.add_comm 1]

theorem digits_head_ne_star {t : Text} (h : isDigitString t = true) : t.head? ≠ some '*' := by
  cases t with
  | nil => simp
  | cons c t =>
    rintro ⟨⟩
    simp [isDigitString, isAsciiDigit] at h

/-- A digit string is an immediate, under every opcode: it is no special register's name (spec 40_cycle R150). -/
theorem resolveSrc_digits (op : Opcode) (s : State) {t : Text} (h : isDigitString t = true) :
    resolveSrc op s t = .ok (some (decimal t : Int)) := by
  have hspecial : t ∉ specialNames := fun hmem => by simp [special_not_digits hmem] at h
  have hclass : classifySrc s.gpr t = .immediate (decimal t) := by simp [classifySrc, digits_head_ne_star h, h]
  rw [resolveSrc_generic (.inr hspecial), resolveToken, hclass]

/-- Settles O33: `-5` begins with no `*`, is no digit string and names no register. -/
theorem immediateIsDecimalValue : Obligations.ImmediateIsDecimalValue := by
  refine ⟨fun op s t h => ?value, fun t => ?leadingZero, fun s hreg => ⟨fun op => ?minusSrc, fun i hdest => ?minusDest⟩⟩
  case value =>
    rw [resolveSrc_digits op s h, decimal_eq_sum]
    rfl
  case leadingZero =>
    have hzero : digitValue '0' = 0 := rfl
    rw [decimal_cons, hzero, zero_mul, zero_add]
  case minusSrc =>
    exact resolveSrc_noValue op (by decide) (by decide) (by decide) hreg
  case minusDest =>
    rw [← hdest] at hreg ⊢
    exact abortsInResolve_of_dest hreg

/-! ### The control vectors -/

/-- Every vector has the three phase fields set (spec 30_encoding R112). -/
theorem generate_phases (op : Opcode) :
    (generate op).fetch = true ∧ (generate op).decode = true ∧ (generate op).execute = true := by
  cases op <;> exact ⟨rfl, rfl, rfl⟩

theorem generate_alu (f : AluOp) : generate f.opcode = aluVector f := by
  cases f <;> rfl

/-- The code of the ALU operation a vector holds, zero where it holds none: the field in bits 11 to 8 of R119. -/
def aluCode (alu : Option AluOp) : BitVec 4 :=
  (alu.map fun f => f.opcode.code).getD 0

/-- The packed vector as the ALU code with one field after the other appended below it, `fetch` lowest (spec 30_encoding R119). -/
theorem packVector_eq_concat (v : ControlVector) : packVector v =
    ((((((((aluCode v.aluOperation).concat v.aluOperation.isSome).concat v.registerWrite).concat v.registerRead).concat
      v.memoryWrite).concat v.memoryRead).concat v.execute).concat v.decode).concat v.fetch := by
  unfold packVector
  cases v.aluOperation <;> rfl

theorem packVector_fields (v : ControlVector) :
    (packVector v).getLsbD 0 = v.fetch ∧ (packVector v).getLsbD 1 = v.decode ∧ (packVector v).getLsbD 2 = v.execute ∧
    (packVector v).getLsbD 3 = v.memoryRead ∧ (packVector v).getLsbD 4 = v.memoryWrite ∧
    (packVector v).getLsbD 5 = v.registerRead ∧ (packVector v).getLsbD 6 = v.registerWrite ∧
    (packVector v).getLsbD 7 = v.aluOperation.isSome := by
  rw [packVector_eq_concat]
  simp

theorem packVector_aluCode (v : ControlVector) : (packVector v).extractLsb' 8 4 = aluCode v.aluOperation := by
  refine BitVec.eq_of_getElem_eq fun i hi => ?_
  have hbit : (packVector v).getLsbD (8 + i) = (aluCode v.aluOperation).getLsbD i := by
    rw [packVector_eq_concat]
    simp [BitVec.getLsbD_concat]
  rw [BitVec.getElem_extractLsb', hbit, BitVec.getLsbD_eq_getElem hi]

/-- The vector of an ALU-class opcode selects the ALU path of its operation (spec 30_encoding R120). -/
theorem selectPath_alu (f : AluOp) : selectPath (generate f.opcode) = some (.alu f) := by
  rw [generate_alu, aluVector, phaseVector, selectPath]

/-- Settles O47: the fields of every vector from `packVector_eq_concat`; the thirteen packed values are computed. -/
theorem controlVectorsPackAndSelectPath : Obligations.ControlVectorsPackAndSelectPath := by
  refine ⟨generate_phases, fun v => ?fields, rfl, selectPath_alu, rfl, rfl, rfl⟩
  obtain ⟨hfetch, hdecode, hexecute, hread, hwrite, hregRead, hregWrite, halu⟩ := packVector_fields v
  exact ⟨hfetch, hdecode, hexecute, hread, hwrite, hregRead, hregWrite, halu, packVector_aluCode v⟩

end Sys2Proof.Machine
end

section
/-! PROOFS. The statements about the cycle: what src resolves to, which phase raises an error and what it leaves, the frame of each
class of instructions, and that every run ends (spec 40_cycle R143 to R164). -/

namespace Sys2Proof.Machine

/-! ### FETCH -/

/-- A FETCH error changes FAULT alone (spec 40_cycle R143). -/
theorem step_noFetch {s : State} {c : Cause} (hfault : s.fault = none) (h : fetchLine s = .error c) :
    step s = .next { s with fault := some ⟨c, s.pc, none⟩ } := by
  rw [step, hfault, h]
  rfl

/-- Settles O6: the two errors of `fetchLine_error`. -/
theorem fetchFailuresChangeOnlyFault : Obligations.FetchFailuresChangeOnlyFault := fun _ hfault =>
  ⟨fun hout => step_noFetch hfault (fetchLine_error.mpr (.inr ⟨hout, rfl⟩)),
   fun hin hempty => step_noFetch hfault (fetchLine_error.mpr (.inl ⟨hin, hempty, rfl⟩))⟩

/-! ### RESOLVE -/

/-- Settles O36: the two aborts of RESOLVE, dest first. -/
theorem destResolvesBeforeSrcBeforeDispatch : Obligations.DestResolvesBeforeSrcBeforeDispatch := fun _ _ =>
  ⟨abortsInResolve_of_dest, fun _ _ => abortsInResolve_of_src⟩

/-- `*R` raises InvalidAddress of the value that R holds, where that is no address in range (spec 40_cycle R149). -/
theorem resolveSrc_star_outOfRange (op : Opcode) {s : State} {r : Text} {v : Val} (hreg : s.reg r = some v)
    (hout : ¬ InRange s.dmem.size v) : resolveSrc op s ('*' :: r) = .error (.invalidAddress .dmem v) := by
  rw [resolveSrc_star, resolveIndirect, lookupReg_ok.mpr hreg]
  exact dmemRead_error.mpr ⟨rfl, inRange_iff.not.mp hout⟩

/-- A register's name is its value under every opcode, also where it spells a special register (spec 40_cycle R151). -/
theorem resolveSrc_direct (op : Opcode) {s : State} {t : Text} {v : Val} (hstar : t.head? ≠ some '*')
    (hdigit : isDigitString t = false) (hreg : s.reg t = some v) : resolveSrc op s t = .ok v := by
  by_cases hnamed : op ≠ .move ∧ t ∈ specialNames
  · rw [resolveSrc_named hnamed.1 hnamed.2, lookupReg_ok.mpr hreg]
  · rw [resolveSrc_generic (by tauto), resolveToken_direct hstar hdigit hreg]

/-- Settles O32: one lemma for each class of src, in the order of R104. -/
theorem srcResolvesByFirstMatchingClass : Obligations.SrcResolvesByFirstMatchingClass := by
  intro op s t
  refine ⟨?word, ?noRegister, ?outOfRange, resolveSrc_digits op s, fun v => resolveSrc_direct op, ?noValue⟩
  case word =>
    rintro r a rfl hreg ha
    exact resolveSrc_star_word op hreg ha
  case noRegister =>
    rintro r rfl hreg
    exact resolveSrc_star_unknown op hreg
  case outOfRange =>
    rintro r v rfl hreg hout
    exact resolveSrc_star_outOfRange op hreg hout
  case noValue =>
    intro hstar hdigit hplain hreg
    rw [resolveSrc_generic hplain, resolveToken_noValue hstar hdigit hreg]

/-! ### What an instruction changes, element by element -/

theorem not_isAluOpcode_iff (op : Opcode) : ¬ IsAluOpcode op ↔ op = .load ∨ op = .store ∨ op = .move := by
  constructor
  · exact (opcode_cases op).resolve_left
  · rintro (rfl | rfl | rfl) ⟨f, hf⟩ <;> cases f <;> cases hf

theorem IsAluOpcode.ne_store {op : Opcode} (h : IsAluOpcode op) : op ≠ .store := fun hop =>
  (not_isAluOpcode_iff op).mpr (.inr (.inl hop)) h

/-- What FETCH and DECODE latched, which no instruction changes, and the model's field `loaded`. -/
structure FetchKept (s t : State) : Prop where
  pc : t.pc = s.pc
  mar : t.mar = s.mar
  ir : t.ir = s.ir
  mbr : t.mbr = s.mbr
  loaded : t.loaded = s.loaded

/-- The flags and both ALU latches, which only an ALU call writes (spec 41_alu R180). -/
structure AluKept (s t : State) : Prop where
  psw : t.psw = s.psw
  value : t.aluValue = s.aluValue
  expr : t.aluExpr = s.aluExpr

theorem exec_fetchKept {i : Instr} {s t : State} (h : exec i s = .next t) : FetchKept s t := by
  have hanswer := exec_answer i s
  rw [h] at hanswer
  cases hanswer <;> exact ⟨rfl, rfl, rfl, rfl, rfl⟩

/-- An instruction writes no register but dest, and a STORE none. -/
theorem exec_registers {i : Instr} {s t : State} (h : exec i s = .next t) :
    t.gpr = s.gpr ∨ i.opcode ≠ .store ∧ ∃ v, t.gpr = setRegAt s.gpr i.dest v := by
  have hanswer := exec_answer i s
  rw [h] at hanswer
  cases hanswer
  case alu f x y hf hdest hsrc hpresent =>
    exact .inr ⟨IsAluOpcode.ne_store ⟨f, hf⟩, _, rfl⟩
  case load x y hop hdest hsrc => exact .inr ⟨by simp [hop], _, rfl⟩
  case move x y v hop hdest hsrc hreg => exact .inr ⟨by simp [hop], _, rfl⟩
  all_goals exact .inl rfl -- an abort, or the write of a data word

theorem exec_other_register {i : Instr} {s t : State} (h : exec i s = .next t) {n : Text} (hn : n ≠ i.dest) :
    t.reg n = s.reg n := by
  rcases exec_registers h with hsame | ⟨-, v, hset⟩
  · rw [State.reg, hsame, State.reg]
  · rw [State.reg, hset, regAt_setRegAt_other hn, State.reg]

theorem exec_dmem_of_not_store {i : Instr} {s t : State} (hop : i.opcode ≠ .store) (h : exec i s = .next t) :
    t.dmem = s.dmem := by
  obtain ⟨-, hsame | ⟨-, -, ⟨hstore, -⟩, -⟩⟩ := exec_memories h
  · exact hsame
  · exact absurd hstore hop

/-- An instruction that writes a flag or an ALU latch made the ALU call of its opcode. -/
theorem exec_aluKept_or_called {i : Instr} {s t : State} (h : exec i s = .next t) :
    AluKept s t ∨ ∃ f x y, f.opcode = i.opcode ∧ t.aluValue = (aluCompute f x y).value ∧
      t.psw = pswAfter (aluCompute f x y).value (aluCompute f x y).carry (aluCompute f x y).overflow s.psw := by
  have hanswer := exec_answer i s
  rw [h] at hanswer
  cases hanswer
  case alu f x y hf hdest hsrc hpresent => exact .inr ⟨f, x, y, hf, rfl, rfl⟩
  all_goals exact .inl ⟨rfl, rfl, rfl⟩ -- an abort, or a transfer

theorem exec_aluKept {i : Instr} {s t : State} (hop : ¬ IsAluOpcode i.opcode) (h : exec i s = .next t) : AluKept s t := by
  rcases exec_aluKept_or_called h with hkept | ⟨f, -, -, hf, -⟩
  · exact hkept
  · exact absurd ⟨f, hf⟩ hop

/-! ### The writers of C and O -/

theorem onBoth_plainResult (g : Int → Int → Int) (x y : Val) :
    ∃ v, onBoth (fun a b => plainResult (some (g a b))) x y = plainResult v := by
  cases x with
  | none => exact ⟨none, rfl⟩
  | some a =>
    cases y with
    | none => exact ⟨none, rfl⟩
    | some b => exact ⟨_, rfl⟩

/-- The seven other operations write neither C nor O (spec 41_alu R184). -/
theorem aluCompute_plainResult {f : AluOp} (hadd : f ≠ .add) (hsub : f ≠ .sub) (hmul : f ≠ .mul) (x y : Val) :
    ∃ v, aluCompute f x y = plainResult v := by
  cases f with
  | add | sub | mul => contradiction
  | and => exact onBoth_plainResult bitAnd x y
  | or => exact onBoth_plainResult bitOr x y
  | xor => exact onBoth_plainResult bitXor x y
  | not | jp | jpz => exact ⟨_, rfl⟩
  | div =>
    rw [aluCompute, aluDiv]
    split_ifs
    · exact ⟨_, rfl⟩
    · exact onBoth_plainResult floorDiv x y

theorem aluCompute_carry {f : AluOp} (hadd : f ≠ .add) (hsub : f ≠ .sub) (hmul : f ≠ .mul) (x y : Val) :
    (aluCompute f x y).carry = none := by
  obtain ⟨v, hv⟩ := aluCompute_plainResult hadd hsub hmul x y
  rw [hv, plainResult]

/-- MUL writes C and not O (spec 41_alu R189). -/
theorem aluMul_overflow (x y : Val) : (aluMul x y).overflow = none := by
  cases x with
  | none => rfl
  | some a => cases y <;> rfl

theorem aluCompute_overflow {f : AluOp} (hadd : f ≠ .add) (hsub : f ≠ .sub) (x y : Val) :
    (aluCompute f x y).overflow = none := by
  by_cases hmul : f = .mul
  · rw [hmul]
    exact aluMul_overflow x y
  · obtain ⟨v, hv⟩ := aluCompute_plainResult hadd hsub hmul x y
    rw [hv, plainResult]

/-- C changes only by ADD, SUB and MUL (spec 10_state R44). -/
theorem exec_carry {i : Instr} {s t : State} (h : exec i s = .next t) (hadd : i.opcode ≠ .add) (hsub : i.opcode ≠ .sub)
    (hmul : i.opcode ≠ .mul) : t.psw.c = s.psw.c := by
  rcases exec_aluKept_or_called h with hkept | ⟨f, x, y, hf, -, hpsw⟩
  · rw [hkept.psw]
  · rw [← hf] at hadd hsub hmul
    rw [hpsw, pswAfter, aluCompute_carry (ne_of_apply_ne _ hadd) (ne_of_apply_ne _ hsub) (ne_of_apply_ne _ hmul), writeOrKeep]

/-- O changes only by ADD and SUB (spec 10_state R44). -/
theorem exec_overflow {i : Instr} {s t : State} (h : exec i s = .next t) (hadd : i.opcode ≠ .add) (hsub : i.opcode ≠ .sub) :
    t.psw.o = s.psw.o := by
  rcases exec_aluKept_or_called h with hkept | ⟨f, x, y, hf, -, hpsw⟩
  · rw [hkept.psw]
  · rw [← hf] at hadd hsub
    rw [hpsw, pswAfter, aluCompute_overflow (ne_of_apply_ne _ hadd) (ne_of_apply_ne _ hsub), writeOrKeep]

/-! ### The frames -/

/-- Settles O28: an ALU-class opcode is not STORE; the flags by `exec_carry` and `exec_overflow`. -/
theorem aluClassFrame : Obligations.AluClassFrame := by
  intro i s t halu h
  obtain ⟨⟨himem, hk, hconfig⟩, -⟩ := exec_memories h
  obtain ⟨-, hmar, hir, hmbr, hloaded⟩ := exec_fetchKept h
  have hdmem := exec_dmem_of_not_store halu.ne_store h
  exact ⟨fun n => exec_other_register h, fun a => by rw [hdmem], hconfig, himem, hmar, hir, hmbr, hk, hloaded,
    exec_carry h, exec_overflow h⟩

/-- Settles O29: neither opcode is STORE and neither calls the ALU. -/
theorem loadMoveFrame : Obligations.LoadMoveFrame := by
  intro i s t hop h
  obtain ⟨⟨himem, hk, hconfig⟩, -⟩ := exec_memories h
  obtain ⟨-, hmar, hir, hmbr, hloaded⟩ := exec_fetchKept h
  obtain ⟨hpsw, hvalue, hexpr⟩ := exec_aluKept ((not_isAluOpcode_iff _).mpr (by tauto)) h
  have hstore : i.opcode ≠ .store := by rcases hop with hop | hop <;> simp [hop]
  have hdmem := exec_dmem_of_not_store hstore h
  exact ⟨fun n => exec_other_register h, fun a => by rw [hdmem], hpsw, hvalue, hexpr, hconfig, himem, hmar, hir, hmbr, hk, hloaded⟩

/-- Settles O30: STORE writes no register, and a word other than the one src resolves to is kept as by any instruction that is no
STORE to it. -/
theorem storeFrame : Obligations.StoreFrame := by
  intro i s t hop h
  obtain ⟨⟨himem, hk, hconfig⟩, -⟩ := exec_memories h
  obtain ⟨-, hmar, hir, hmbr, hloaded⟩ := exec_fetchKept h
  obtain ⟨hpsw, hvalue, hexpr⟩ := exec_aluKept ((not_isAluOpcode_iff _).mpr (.inr (.inl hop))) h
  have hgpr : t.gpr = s.gpr := (exec_registers h).resolve_right fun ⟨hne, _⟩ => hne hop
  refine ⟨fun n => by rw [State.reg, hgpr, State.reg], hpsw, hvalue, hexpr, hconfig, himem, hmar, hir, hmbr, hk, hloaded,
    fun a hsrc b hb => ?otherWord, fun hnone b => ?noAddress⟩
  case otherWord =>
    have hno : ¬ StoresTo b i s := fun ⟨_, hsrc'⟩ => hb (by simpa [hsrc, eq_comm] using hsrc')
    exact (exec_keeps_word hno h).2
  case noAddress =>
    have hno : ¬ StoresTo b i s := fun ⟨_, hsrc⟩ => hnone b hsrc
    exact (exec_keeps_word hno h).2

/-! ### Aborted cycles -/

theorem classifyTokens_error {m d src : Text} {e : DecodeError} (h : classifyTokens m d src = .error e) :
    e = .unknownOpcode m := by
  rw [classifyTokens] at h
  split at h <;> cases h
  rfl

/-- The two errors of DECODE: one holds the line, the other its first token (spec 40_cycle R144, R145). -/
theorem decode_error {line : Text} {e : DecodeError} (h : decode line = .error e) :
    e = .malformed line ∨ ∃ m, e = .unknownOpcode m := by
  unfold decode at h
  split at h
  case h_1 m _ | h_2 m _ _ | h_3 m _ _ _ => exact .inr ⟨m, classifyTokens_error h⟩
  case h_4 =>
    cases h
    exact .inl rfl

/-- The errors that RESOLVE raises (spec 40_cycle R164). -/
def ResolveCause (c : Cause) : Prop :=
  (∃ n, c = .unknownRegister n) ∨ ∃ v, c = .invalidAddress .dmem v

/-- The errors that DISPATCH raises under an opcode (spec 40_cycle R164). -/
def DispatchCause (op : Opcode) (c : Cause) : Prop :=
  (IsAluOpcode op ∧ c = .absentOperand) ∨ (op = .store ∧ ∃ v, c = .invalidAddress .dmem v) ∨
    (op = .move ∧ ∃ n, c = .unknownRegister n)

theorem resolveCause_of_src {op : Opcode} {s : State} {t : Text} {c : Cause} (h : resolveSrc op s t = .error c) :
    ResolveCause c := by
  rcases resolveSrc_error h with ⟨r, -, ⟨-, hc⟩ | ⟨v, -, hread⟩⟩ | ⟨-, -, -, hc⟩
  · exact .inl ⟨t, hc⟩
  · exact .inr ⟨v, (dmemRead_error.mp hread).1⟩
  · exact .inl ⟨t, hc⟩

/-- An instruction that records an error changed nothing else, but CSV if the error came in DISPATCH. -/
theorem exec_aborted {i : Instr} {s t : State} {e : ErrorRecord} (hfault : s.fault = none) (h : exec i s = .next t)
    (he : t.fault = some e) : e.address = s.pc - 1 ∧
      ((ResolveCause e.cause ∧ t = { s with fault := some e }) ∨
       (e.opcode = some i.opcode ∧ DispatchCause i.opcode e.cause ∧
        t = { s with csv := some (generate i.opcode), fault := some e })) := by
  have hanswer := exec_answer i s
  rw [h] at hanswer
  cases hanswer
  case badDest =>
    cases he
    exact ⟨rfl, .inl ⟨.inl ⟨_, rfl⟩, rfl⟩⟩
  case badSrc x c hdest hsrc =>
    cases he
    exact ⟨rfl, .inl ⟨resolveCause_of_src hsrc, rfl⟩⟩
  case absent f x y hf hdest hsrc hpresent =>
    cases he
    exact ⟨rfl, .inr ⟨rfl, .inl ⟨⟨f, hf⟩, rfl⟩, rfl⟩⟩
  case badStore x y hop hdest hsrc hout =>
    cases he
    exact ⟨rfl, .inr ⟨rfl, .inr (.inl ⟨hop, y, rfl⟩), rfl⟩⟩
  case badMove x y hop hdest hsrc hreg =>
    cases he
    exact ⟨rfl, .inr ⟨rfl, .inr (.inr ⟨hop, _, rfl⟩), rfl⟩⟩
  case alu | load | store | move => -- completed: FAULT is as it was
    cases hfault.symm.trans he

/-- Settles O10: one case for each phase that can raise the error. -/
theorem abortedCycleLeavesPhaseState : Obligations.AbortedCycleLeavesPhaseState := by
  intro s t e hfault hstep he
  have hanswer := step_answer s
  generalize step s = r at hstep hanswer
  cases hanswer
  case stuck => cases hstep
  case noFetch c _ hfetch =>
    cases hstep
    cases he
    rcases fetchLine_error.mp hfetch with ⟨-, -, hc⟩ | ⟨-, hc⟩
    · exact ⟨rfl, .inl ⟨.inl hc, rfl⟩⟩
    · exact ⟨rfl, .inl ⟨.inr hc, rfl⟩⟩
  case noInstr line d _ hline hdecode =>
    cases hstep
    cases he
    refine ⟨rfl, .inr ⟨line, (fetchLine_ok.mp hline).2, .inl ⟨?_, rfl⟩⟩⟩
    rcases decode_error hdecode with rfl | ⟨m, rfl⟩
    · exact .inl rfl
    · exact .inr (.inl ⟨m, rfl⟩)
  case ran line i _ hline hdecode =>
    obtain ⟨haddress, hphase⟩ := exec_aborted (s := s.latchLine line) hfault hstep he
    refine ⟨haddress, .inr ⟨line, (fetchLine_ok.mp hline).2, ?_⟩⟩
    rcases hphase with ⟨hcause, ht⟩ | ⟨hop, hcause, ht⟩
    · exact .inl ⟨.inr (.inr hcause), ht⟩
    · exact .inr ⟨i.opcode, hop, hcause, ht⟩

/-! ### Runs -/

/-- Every instruction has a next state in every state (spec 40_cycle R168). -/
theorem exec_has_next (i : Instr) (s : State) : ∃ t, exec i s = .next t := by
  have hanswer := exec_answer i s
  generalize exec i s = r at hanswer
  cases hanswer <;> exact ⟨_, rfl⟩

theorem step_has_next {s : State} (hfault : s.fault = none) : ∃ t, step s = .next t := by
  have hanswer := step_answer s
  generalize step s = r at hanswer
  cases hanswer
  case stuck e he => cases hfault.symm.trans he
  case noFetch => exact ⟨_, rfl⟩
  case noInstr => exact ⟨_, rfl⟩
  case ran line i _ _ _ => exact exec_has_next i _

/-- A cycle that records no error adds 1 to PC (spec 10_state R36). -/
theorem step_pc_of_completed {s t : State} (h : step s = .next t) (ht : t.fault = none) : t.pc = s.pc + 1 := by
  have hanswer := step_answer s
  generalize step s = r at h hanswer
  cases hanswer
  case stuck => cases h
  case noFetch => cases h; cases ht
  case noInstr => cases h; cases ht
  case ran => exact (exec_fetchKept h).pc

theorem core_run_step {s t : State} (n : Nat) (h : step s = .next t) :
    Host.Core.run core (n + 1) s = Host.Core.run core n t := by
  have hcore : core.step s = .next t := h
  simp only [Host.Core.run, hcore]

theorem runFor_step {s t : State} (n : Nat) (hfault : s.fault = none) (hpc : s.pc < s.k) (h : step s = .next t) :
    runFor (n + 1) s = runFor n t := by
  simp [runFor, hfault, hpc, h]

theorem runFor_faulted {s : State} {e : ErrorRecord} (n : Nat) (hfault : s.fault = some e) : runFor n s = .next s := by
  cases n <;> simp [runFor, hfault]

/-- `t` ends a run of `n` cycles from `s`, of at most `bound`: with no error all were made and each added 1 to PC. -/
def RunEnd (bound n : Nat) (s t : State) : Prop :=
  (t.fault = none ∧ n = bound ∧ t.pc = s.pc + n) ∨ ∃ e, t.fault = some e ∧ n ≤ bound

/-- One completed cycle in front of a run. -/
theorem RunEnd.cons {bound n : Nat} {s u t : State} (hpc : u.pc = s.pc + 1) (h : RunEnd bound n u t) :
    RunEnd (bound + 1) (n + 1) s t := by
  rcases h with ⟨hnone, rfl, ht⟩ | ⟨e, he, hn⟩
  · exact .inl ⟨hnone, rfl, by omega⟩
  · exact .inr ⟨e, he, by omega⟩

/-- The loop, allowed as many cycles as PC is below K, ends where that many steps of the machine do, or at the first error. -/
theorem runFor_ends (bound : Nat) {s : State} (hbound : bound = s.k - s.pc) :
    ∃ n t, runFor bound s = .next t ∧ Host.Core.run core n s = .next t ∧ RunEnd bound n s t := by
  induction bound generalizing s with
  | zero =>
    refine ⟨0, s, rfl, rfl, ?_⟩
    cases hfault : s.fault with
    | none => exact .inl ⟨hfault, rfl, rfl⟩
    | some e => exact .inr ⟨e, hfault, le_rfl⟩
  | succ m ih =>
    cases hfault : s.fault with
    | some e => exact ⟨0, s, runFor_faulted _ hfault, rfl, .inr ⟨e, hfault, Nat.zero_le _⟩⟩
    | none =>
      obtain ⟨u, hstep⟩ := step_has_next hfault
      rw [runFor_step m hfault (by omega) hstep]
      cases hu : u.fault with
      | some e =>
        exact ⟨1, u, runFor_faulted m hu, core_run_step 0 hstep, .inr ⟨e, hu, by omega⟩⟩
      | none =>
        have hpc : u.pc = s.pc + 1 := step_pc_of_completed hstep hu
        have hk : u.k = s.k := (step_memories hstep).1.k
        obtain ⟨n, t, hrun, hcore, hend⟩ := ih (s := u) (by omega)
        exact ⟨n + 1, t, hrun, (core_run_step n hstep).trans hcore, hend.cons hpc⟩

/-- Settles O13: `run` is the loop with the bound K - PC. -/
theorem runEndsAtProgramEndOrFault : Obligations.RunEndsAtProgramEndOrFault :=
  fun _ => runFor_ends _ rfl

end Sys2Proof.Machine
end

section
/-! PROOFS. The statements about the arithmetic instructions and their flags (spec 41_alu R186 to R190, R192). First what every
ALU-class instruction does with its operands, then each operation on operands that are present. -/

namespace Sys2Proof.Machine

/-! ### What holds of every instruction -/

/-- The mnemonic, the internal code and the packed vector of an opcode are those it is encoded with. -/
theorem encoded_of_opcode (op : Opcode) : Encoded op op.mnemonic op.code (packVector (generate op)) :=
  ⟨classifyTokens_mnemonic op, rfl, rfl⟩

/-- The errors of RESOLVE are the same for every instruction (spec 40_cycle R146, R147, R149). -/
theorem operandErrors_of_instr (i : Instr) (s : State) : OperandErrors i s where
  dest := abortsInResolve_of_dest
  name := by
    intro x r hdest hsrc hreg
    refine abortsInResolve_of_src hdest ?_
    rw [hsrc, resolveSrc_star_unknown i.opcode hreg]
  address := by
    intro x r v hdest hsrc hreg hout
    refine abortsInResolve_of_src hdest ?_
    rw [hsrc, resolveSrc_star_outOfRange i.opcode hreg hout]

/-! ### The presence check -/

/-- An operation that needs both operands lacks one exactly where one is NONE (spec 41_alu R182). -/
theorem bothPresent_eq_false_iff {x y : Val} : (x.isSome && y.isSome) = false ↔ x = none ∨ y = none := by
  cases x <;> simp

/-- DIV needs op2, and op1 unless op2 is 0 (spec 41_alu R182, R190). -/
theorem presentOk_div_eq_false_iff {x y : Val} : presentOk .div x y = false ↔ y = none ∨ (y ≠ some 0 ∧ x = none) := by
  cases y <;> simp [presentOk]

/-! ### What every ALU-class instruction does with its resolved operands -/

/-- A register write, seen register by register. -/
theorem registerWritten_of_setRegAt {s t : State} {d : Text} {x v : Val} (hdest : s.reg d = some x)
    (hgpr : t.gpr = setRegAt s.gpr d v) : RegisterWritten d v s t where
  written := by rw [State.reg, hgpr, regAt_setRegAt_same hdest]
  others n hn := by rw [State.reg, hgpr, regAt_setRegAt_other hn, State.reg]
  names := by rw [hgpr, setRegAt_names]

section aluInstr
variable {i : Instr} {s : State} {f : AluOp} {x y : Val}

theorem exec_alu_resolved (hop : f.opcode = i.opcode) (hdest : s.reg i.dest = some x)
    (hsrc : resolveSrc i.opcode s i.src = .ok y) : exec i s = aluPath f i.dest x y (s.latchVector (generate f.opcode)) := by
  rw [exec_eq_runInstr, runInstr_resolved hdest hsrc, ← hop, dispatch_alu]

/-- Where the operation lacks an operand it needs, the cycle ends in DISPATCH (spec 41_alu R182). -/
theorem abortsInDispatch_of_absent (hop : f.opcode = i.opcode) (hdest : s.reg i.dest = some x)
    (hsrc : resolveSrc i.opcode s i.src = .ok y) (habsent : presentOk f x y = false) :
    AbortsInDispatch i s .absentOperand := by
  rw [AbortsInDispatch, exec_alu_resolved hop hdest hsrc, aluPath, habsent, hop]
  rfl

/-- Where the operands it needs are present, the ALU call is made and its value written to dest (spec 40_cycle R156). -/
theorem exec_alu_present {r : AluResult} (hop : f.opcode = i.opcode) (hdest : s.reg i.dest = some x)
    (hsrc : resolveSrc i.opcode s i.src = .ok y) (hpresent : presentOk f x y = true) (hresult : aluCompute f x y = r) :
    ∃ t, exec i s = .next t ∧
      AluCompleted f i.dest x y r.value (pswAfter r.value r.carry r.overflow s.psw) s t := by
  rw [exec_alu_resolved hop hdest hsrc, aluPath, if_pos hpresent, hresult]
  exact ⟨_, rfl, registerWritten_of_setRegAt hdest rfl, rfl⟩

/-- Z and S of an integer result (spec 41_alu R183). -/
theorem pswAfter_some (v : Int) (carry overflow : Option Bool) (old : Psw) : pswAfter (some v) carry overflow old =
    { z := some (decide (v = 0)), c := writeOrKeep carry old.c, s := some (decide (v < 0)),
      o := writeOrKeep overflow old.o } := by
  rw [pswAfter, zeroOf, signOf, beq_eq_decide]

/-- An ALU call whose value is an integer. -/
theorem exec_alu_integer {v : Int} {carry overflow : Option Bool} (hop : f.opcode = i.opcode) (hdest : s.reg i.dest = some x)
    (hsrc : resolveSrc i.opcode s i.src = .ok y) (hpresent : presentOk f x y = true)
    (hresult : aluCompute f x y = { value := some v, carry := carry, overflow := overflow }) :
    ∃ t, exec i s = .next t ∧
      AluCompleted f i.dest x y (some v)
        { z := some (decide (v = 0)), c := writeOrKeep carry s.psw.c, s := some (decide (v < 0)),
          o := writeOrKeep overflow s.psw.o } s t := by
  rw [← pswAfter_some]
  exact exec_alu_present hop hdest hsrc hpresent hresult

/-- An instruction whose operation needs both operands and computes an integer of them: what it writes, and every error
(spec 41_alu R182 to R184). -/
theorem bothOperands_outcomes {value : Int → Int → Int} {carry overflow : Int → Int → Option Bool} (hop : f.opcode = i.opcode)
    (hboth : ∀ x y, presentOk f x y = (x.isSome && y.isSome))
    (hresult : ∀ a b, aluCompute f (some a) (some b) =
      { value := some (value a b), carry := carry a b, overflow := overflow a b }) :
    (∀ a b : Int, s.reg i.dest = some (some a) → resolveSrc i.opcode s i.src = .ok (some b) →
      ∃ t, exec i s = .next t ∧
        AluCompleted f i.dest (some a) (some b) (some (value a b))
          { z := some (decide (value a b = 0)), c := writeOrKeep (carry a b) s.psw.c, s := some (decide (value a b < 0)),
            o := writeOrKeep (overflow a b) s.psw.o } s t) ∧
    (∀ x y, s.reg i.dest = some x → resolveSrc i.opcode s i.src = .ok y → (x = none ∨ y = none) →
      AbortsInDispatch i s .absentOperand) ∧
    OperandErrors i s := by
  refine ⟨fun a b hdest hsrc => ?completes, fun x y hdest hsrc hnone => ?absent, operandErrors_of_instr i s⟩
  case completes => exact exec_alu_integer hop hdest hsrc (hboth _ _) (hresult a b)
  case absent =>
    have habsent : presentOk f x y = false := (hboth x y).trans (bothPresent_eq_false_iff.mpr hnone)
    exact abortsInDispatch_of_absent hop hdest hsrc habsent

end aluInstr

/-! ### The arithmetic operations on operands that are present -/

theorem aluCompute_add (a b : Int) : aluCompute .add (some a) (some b) =
    { value := some (a + b), carry := some (decide (a + b > 4294967295)),
      overflow := some (bitAt a 31 == bitAt b 31 && bitAt (a + b) 31 != bitAt a 31) } := rfl

theorem aluCompute_sub (a b : Int) : aluCompute .sub (some a) (some b) =
    { value := some (a - b), carry := some (decide (a < b)),
      overflow := some (bitAt a 31 != bitAt b 31 && bitAt (a - b) 31 != bitAt a 31) } := rfl

theorem aluCompute_mul (a b : Int) : aluCompute .mul (some a) (some b) =
    { value := some (a * b), carry := some (decide (a * b > 4294967295)), overflow := none } := rfl

/-- A divisor 0 gives 0, whatever op1 is. -/
theorem aluCompute_div_zero (x : Val) : aluCompute .div x (some 0) = plainResult (some 0) := rfl

theorem aluCompute_div (a : Int) {b : Int} (hb : b ≠ 0) :
    aluCompute .div (some a) (some b) = plainResult (some (Int.fdiv a b)) := by
  have hdivisor : ((some b : Val) == some 0) = false := by simpa using hb
  rw [aluCompute, aluDiv, hdivisor]
  rfl

/-! ### The arithmetic instructions -/

/-- Settles O15: ADD needs both operands; `aluCompute_add` gives the sum and its flags. -/
theorem addWritesExactSumAndAllFlags : Obligations.AddWritesExactSumAndAllFlags :=
  ⟨encoded_of_opcode .add, fun d src _ => bothOperands_outcomes (i := .add d src) rfl (fun _ _ => rfl) aluCompute_add⟩

/-- Settles O16: SUB needs both operands; `aluCompute_sub` gives the difference and its flags. -/
theorem subWritesExactDifferenceAndAllFlags : Obligations.SubWritesExactDifferenceAndAllFlags :=
  ⟨encoded_of_opcode .sub, fun d src _ => bothOperands_outcomes (i := .sub d src) rfl (fun _ _ => rfl) aluCompute_sub⟩

/-- Settles O17: MUL needs both operands; `aluCompute_mul` gives the product and C, and no O, which is kept. -/
theorem mulWritesExactProductAndKeepsOverflow : Obligations.MulWritesExactProductAndKeepsOverflow :=
  ⟨encoded_of_opcode .mul, fun d src _ => bothOperands_outcomes (i := .mul d src) rfl (fun _ _ => rfl) aluCompute_mul⟩

/-- Settles O18: a divisor 0 passes the presence check whatever op1 is; any other needs both operands. -/
theorem divWritesFloorQuotientOrZero : Obligations.DivWritesFloorQuotientOrZero := by
  refine ⟨encoded_of_opcode .div, fun d src s => ⟨?zeroDivisor, ?quotient, ?absent, operandErrors_of_instr _ s⟩⟩
  case zeroDivisor =>
    intro x hdest hsrc
    exact exec_alu_integer (i := .div d src) (f := .div) rfl hdest hsrc rfl (aluCompute_div_zero x)
  case quotient =>
    intro a b hb hdest hsrc
    have hpresent : presentOk .div (some a) (some b) = true := by simp [presentOk]
    exact exec_alu_integer (i := .div d src) (f := .div) rfl hdest hsrc hpresent (aluCompute_div a hb)
  case absent =>
    intro x y hdest hsrc hnone
    exact abortsInDispatch_of_absent (i := .div d src) rfl hdest hsrc (presentOk_div_eq_false_iff.mpr hnone)

/-! ### The sign bit and the 32-bit word -/

/-- The sign bit of an integer is the top bit of the 32-bit word it wraps to. -/
theorem signBit_eq_msb (v : Int) : signBit v = (BitVec.ofInt 32 v).msb := by
  have hquot : v.fdiv (2 ^ 31) = v / 2 ^ 31 := Int.fdiv_eq_ediv_of_nonneg v (by positivity)
  rw [signBit, bitAt, hquot, BitVec.msb_eq_decide, BitVec.toNat_ofInt, Bool.eq_iff_iff]
  simp only [beq_iff_eq, decide_eq_true_eq]
  omega

theorem signBit_toInt (x : BitVec 32) : signBit x.toInt = x.msb := by
  rw [signBit_eq_msb, BitVec.ofInt_toInt]

theorem signBit_emod (v : Int) : signBit (v % 2 ^ 32) = signBit v := by
  have hword : BitVec.ofInt 32 (v % 2 ^ 32) = BitVec.ofInt 32 v := by
    apply BitVec.eq_of_toNat_eq
    simp [BitVec.toNat_ofInt]
  rw [signBit_eq_msb, hword, signBit_eq_msb]

theorem bitSlice_low (v : Int) : bitSlice v 31 0 = v % 2 ^ 32 := by
  rw [bitSlice, pow_zero, Int.fdiv_one]

/-- Settles O52: the low 32-bit slice is the remainder, which wraps to the same word. -/
theorem signBitDependsOnLowBits : Obligations.SignBitDependsOnLowBits := by
  refine ⟨rfl, fun v => ⟨rfl, (signBit_emod v).symm, ?slice, decide_eq_true_iff⟩⟩
  case slice => rw [bitSlice_low, signBit_emod]

/-! ### The flags of a 32-bit ALU -/

section word
variable (x y : BitVec 32)

theorem ofInt_toInt_add : BitVec.ofInt 32 (x.toInt + y.toInt) = x + y := by
  rw [BitVec.ofInt_add, BitVec.ofInt_toInt, BitVec.ofInt_toInt]

theorem ofInt_toInt_sub : BitVec.ofInt 32 (x.toInt - y.toInt) = x - y := by
  rw [sub_eq_add_neg, BitVec.ofInt_add, BitVec.ofInt_neg, BitVec.ofInt_toInt, BitVec.ofInt_toInt, BitVec.sub_eq_add_neg]

/-- O of ADD on signed words, by the top bits of the words and of the wrapped sum. -/
theorem overflowOfAdd_toInt : overflowOfAdd x.toInt y.toInt (x.toInt + y.toInt) = BitVec.saddOverflow x y := by
  rw [overflowOfAdd, signBit_toInt, signBit_toInt, signBit_eq_msb, ofInt_toInt_add, BitVec.saddOverflow_eq]
  rfl

/-- O of SUB on signed words, by the top bits of the words and of the wrapped difference. -/
theorem overflowOfSub_toInt : overflowOfSub x.toInt y.toInt (x.toInt - y.toInt) = BitVec.ssubOverflow x y := by
  have hbits : ∀ p q r : Bool, ((p != q) && (r != p)) = (!p && q && r || p && !q && !r) := by decide
  rw [overflowOfSub, signBit_toInt, signBit_toInt, signBit_eq_msb, ofInt_toInt_sub, BitVec.ssubOverflow_eq, hbits]

/-- C of ADD on unsigned words: the sum is past the largest word, CMAX. -/
theorem carryOfResult_toNat : carryOfResult ((x.toNat : Int) + (y.toNat : Int)) = BitVec.uaddOverflow x y := by
  rw [carryOfResult, BitVec.uaddOverflow, carryMax, decide_eq_decide]
  omega

/-- C of SUB on unsigned words: the signed comparison is that of the naturals. -/
theorem borrowOf_toNat : borrowOf (x.toNat : Int) (y.toNat : Int) = BitVec.usubOverflow x y := by
  rw [borrowOf, BitVec.usubOverflow, decide_eq_decide]
  omega

end word

/-- Settles O53, one lemma for each flag and each wrapped result. -/
theorem flagsAgreeWith32BitAlu : Obligations.FlagsAgreeWith32BitAlu :=
  ⟨fun x y => ⟨overflowOfAdd_toInt x y, overflowOfSub_toInt x y, ofInt_toInt_add x y, ofInt_toInt_sub x y⟩,
   fun x y => ⟨carryOfResult_toNat x y, borrowOf_toNat x y⟩⟩

end Sys2Proof.Machine
end


section
/-! PROOFS. The statements about the logic instructions and the signs of their results (spec 42_alu R220 to R224). What every
ALU-class instruction does with its operands stands above; here are the values of the four operations, and why the bits of a result
give its sign. -/

namespace Sys2Proof.Machine

/-! ### The logic operations on operands that are present -/

theorem aluCompute_and (a b : Int) : aluCompute .and (some a) (some b) = plainResult (some (bitAnd a b)) := rfl

theorem aluCompute_or (a b : Int) : aluCompute .or (some a) (some b) = plainResult (some (bitOr a b)) := rfl

theorem aluCompute_xor (a b : Int) : aluCompute .xor (some a) (some b) = plainResult (some (bitXor a b)) := rfl

/-- NOT ignores op1, which may be NONE. -/
theorem aluCompute_not (x : Val) (b : Int) : aluCompute .not x (some b) = plainResult (some (-b - 1)) := rfl

/-! ### The logic instructions -/

/-- Settles O19: AND needs both operands; `aluCompute_and` gives the bitwise and, and neither C nor O, which are kept. -/
theorem andWritesBitwiseAnd : Obligations.AndWritesBitwiseAnd :=
  ⟨encoded_of_opcode .and, fun d src _ => bothOperands_outcomes (i := .and d src) rfl (fun _ _ => rfl) aluCompute_and⟩

/-- Settles O20: OR needs both operands; `aluCompute_or` gives the bitwise or, and neither C nor O, which are kept. -/
theorem orWritesBitwiseOr : Obligations.OrWritesBitwiseOr :=
  ⟨encoded_of_opcode .or, fun d src _ => bothOperands_outcomes (i := .or d src) rfl (fun _ _ => rfl) aluCompute_or⟩

/-- Settles O21: op2 alone decides the presence check, and `aluCompute_not` gives the complement whatever op1 is. -/
theorem notWritesComplementOfSrc : Obligations.NotWritesComplementOfSrc := by
  refine ⟨encoded_of_opcode .not, fun d src s => ⟨?completes, ?absent, operandErrors_of_instr _ s⟩⟩
  case completes =>
    intro x b hdest hsrc
    exact exec_alu_integer (i := .not d src) (f := .not) rfl hdest hsrc rfl (aluCompute_not x b)
  case absent =>
    intro x hdest hsrc
    exact abortsInDispatch_of_absent (i := .not d src) (f := .not) rfl hdest hsrc rfl

/-- Settles O22: XOR needs both operands; `aluCompute_xor` gives the exclusive or, and neither C nor O, which are kept. -/
theorem xorWritesBitwiseXor : Obligations.XorWritesBitwiseXor :=
  ⟨encoded_of_opcode .xor, fun d src _ => bothOperands_outcomes (i := .xor d src) rfl (fun _ _ => rfl) aluCompute_xor⟩

/-! ### The signs of logic results

The sign of an integer is its bit at every place past its magnitude, so an operator that acts bit by bit acts on the signs as it does
on the bits. -/

theorem bitAt_eq_sign {v : Int} {i : Nat} (h : v.natAbs < 2 ^ i) : bitAt v i = decide (v < 0) := by
  cases v with
  | ofNat n =>
    have hbit : n.testBit i = false := Nat.testBit_eq_false_of_lt h
    simp [hbit]
  | negSucc n =>
    have hbit : n.testBit i = false := Nat.testBit_eq_false_of_lt (Nat.lt_of_succ_lt h)
    simp [hbit, Int.negSucc_lt_zero]

/-- If `g` gives every bit of `r` from those of `a` and `b`, it gives the sign of `r` from theirs: read one bit past all three. -/
theorem sign_of_bits {g : Bool → Bool → Bool} {r a b : Int} (h : ∀ i, bitAt r i = g (bitAt a i) (bitAt b i)) :
    decide (r < 0) = g (decide (a < 0)) (decide (b < 0)) := by
  have hpast : r.natAbs + a.natAbs + b.natAbs < 2 ^ (r.natAbs + a.natAbs + b.natAbs) := Nat.lt_two_pow_self
  have hbits := h (r.natAbs + a.natAbs + b.natAbs)
  rwa [bitAt_eq_sign (v := r) (by omega), bitAt_eq_sign (v := a) (by omega), bitAt_eq_sign (v := b) (by omega)] at hbits

theorem bitAnd_neg_iff (a b : Int) : bitAnd a b < 0 ↔ a < 0 ∧ b < 0 := by
  simpa using Bool.eq_iff_iff.mp (sign_of_bits (bitAt_bitAnd a b))

theorem bitOr_neg_iff (a b : Int) : bitOr a b < 0 ↔ a < 0 ∨ b < 0 := by
  simpa using Bool.eq_iff_iff.mp (sign_of_bits (bitAt_bitOr a b))

theorem bitXor_neg_iff (a b : Int) : bitXor a b < 0 ↔ ¬ (a < 0 ↔ b < 0) := by
  have hsign := sign_of_bits (bitAt_bitXor a b)
  rw [Bool.eq_iff_iff, Bool.xor_iff_ne, Ne, decide_eq_decide, decide_eq_true_iff] at hsign
  exact hsign

theorem bitNot_neg_iff (b : Int) : bitNot b < 0 ↔ 0 ≤ b := by
  rw [bitNot]
  omega

theorem bitNot_eq_zero_iff (b : Int) : bitNot b = 0 ↔ b = -1 := by
  rw [bitNot]
  omega

theorem zeroOf_some_iff (v : Int) : zeroOf (some v) = true ↔ v = 0 := beq_iff_eq

theorem signOf_some_iff (v : Int) : signOf (some v) = true ↔ v < 0 := decide_eq_true_iff

/-- Settles O50, one lemma for each operator's sign and one for each flag. -/
theorem logicResultSigns : Obligations.LogicResultSigns := fun a b =>
  ⟨bitAnd_neg_iff a b, bitOr_neg_iff a b, bitXor_neg_iff a b, bitNot_neg_iff b, zeroOf_some_iff a, signOf_some_iff a,
   (zeroOf_some_iff (bitNot b)).trans (bitNot_eq_zero_iff b)⟩

end Sys2Proof.Machine
end

section
/-! PROOFS. The statements about PC and the two jump instructions, which rewrite dest and never PC (spec 10_state R36, 43_jumps R240
to R242). What every ALU-class instruction does with its operands, and the frame of a cycle, stand above. -/

namespace Sys2Proof.Machine

/-! ### PC -/

/-- FETCH finds a line exactly where PC is a slot that is not EMPTY (spec 40_cycle R142, R143). -/
theorem exists_fetchLine_ok_iff {s : State} :
    (∃ line, fetchLine s = .ok line) ↔ s.pc < s.imem.size ∧ (s.imem.get s.pc).isSome = true := by
  simp only [fetchLine_ok, exists_and_left, Option.isSome_iff_exists]

/-- A step adds 1 to PC where FETCH finds a line, whatever the line is, and else leaves it (spec 10_state R36). -/
theorem step_pc {s t : State} (h : step s = .next t) :
    ((∃ line, fetchLine s = .ok line) ∧ t.pc = s.pc + 1) ∨ (¬ (∃ line, fetchLine s = .ok line) ∧ t.pc = s.pc) := by
  have hanswer := step_answer s
  generalize step s = r at h hanswer
  cases hanswer
  case stuck => cases h
  case noFetch c _ hnone =>
    cases h
    refine .inr ⟨?_, rfl⟩
    rintro ⟨line, hline⟩
    cases hnone.symm.trans hline
  case noInstr line _ _ hline _ => cases h; exact .inl ⟨⟨line, hline⟩, rfl⟩
  case ran line i _ hline _ => exact .inl ⟨⟨line, hline⟩, (exec_fetchKept h).pc⟩

/-- Settles O8: an instruction keeps what FETCH latched, a step is cut by what FETCH finds, and past the last slot FETCH raises
InvalidAddress. -/
theorem pcChangesOnlyByIncrement : Obligations.PcChangesOnlyByIncrement := by
  refine ⟨fun i s t h => (exec_fetchKept h).pc, ?increment, ?noWrap⟩
  case increment =>
    intro s t hstep
    have hcases := step_pc hstep
    rw [exists_fetchLine_ok_iff] at hcases
    rcases hcases with ⟨hline, hpc⟩ | ⟨hnone, hpc⟩
    · rw [if_pos hline, hpc]
    · rw [if_neg hnone, hpc]
  case noWrap =>
    intro s hfault hpast
    have hfetch : fetchLine s = .error (.invalidAddress .imem (some s.pc)) := fetchLine_error.mpr (.inr ⟨hpast.not_gt, rfl⟩)
    exact ⟨_, step_noFetch hfault hfetch, rfl⟩

/-! ### The values of JP and JPZ -/

theorem aluCompute_jp (x y : Val) : aluCompute .jp x y = plainResult x := rfl

theorem aluCompute_jpz_zero (x : Val) : aluCompute .jpz x (some 0) = plainResult x := rfl

theorem aluCompute_jpz_nonzero (x : Val) {y : Val} (hy : y ≠ some 0) : aluCompute .jpz x y = plainResult none := by
  rw [aluCompute, aluJpz, if_neg (by simpa using hy)]

/-! ### The jump instructions -/

/-- An ALU call whose value is NONE, which only a jump makes: Z and S are 0 (spec 41_alu R183), C and O are kept. -/
theorem exec_alu_none {i : Instr} {s : State} {f : AluOp} {x y : Val} (hop : f.opcode = i.opcode) (hdest : s.reg i.dest = some x)
    (hsrc : resolveSrc i.opcode s i.src = .ok y) (hpresent : presentOk f x y = true)
    (hresult : aluCompute f x y = plainResult none) :
    ∃ t, exec i s = .next t ∧
      AluCompleted f i.dest x y none { z := some false, c := s.psw.c, s := some false, o := s.psw.o } s t :=
  exec_alu_present hop hdest hsrc hpresent hresult

/-- Settles O23: JP needs no operand, and `aluCompute_jp` gives op1, an integer or NONE. -/
theorem jpWritesDestToItself : Obligations.JpWritesDestToItself := by
  refine ⟨encoded_of_opcode .jp, fun d src s => ⟨?integer, ?absent, operandErrors_of_instr _ s⟩⟩
  case integer =>
    intro a y hdest hsrc
    exact exec_alu_integer (i := .jp d src) (f := .jp) rfl hdest hsrc rfl (aluCompute_jp (some a) y)
  case absent =>
    intro y hdest hsrc
    exact exec_alu_none (i := .jp d src) (f := .jp) rfl hdest hsrc rfl (aluCompute_jp none y)

/-- Settles O24: JPZ needs no operand; with op2 the integer 0 its value is op1, an integer or NONE, and with any other op2 NONE. -/
theorem jpzKeepsDestOrWritesNone : Obligations.JpzKeepsDestOrWritesNone := by
  refine ⟨encoded_of_opcode .jpz, fun d src s => ⟨?integer, ?absent, ?nonzero, operandErrors_of_instr _ s⟩⟩
  case integer =>
    intro a hdest hsrc
    exact exec_alu_integer (i := .jpz d src) (f := .jpz) rfl hdest hsrc rfl (aluCompute_jpz_zero (some a))
  case absent =>
    intro hdest hsrc
    exact exec_alu_none (i := .jpz d src) (f := .jpz) rfl hdest hsrc rfl (aluCompute_jpz_zero none)
  case nonzero =>
    intro x y hdest hsrc hy
    exact exec_alu_none (i := .jpz d src) (f := .jpz) rfl hdest hsrc rfl (aluCompute_jpz_nonzero x hy)

end Sys2Proof.Machine
end

section
/-! PROOFS. The statements about the data-transfer instructions (spec 44_data R260 to R262). What a LOAD and a STORE in range do, and
how MOVE's src fails, stand above with the memories and the names; here are a MOVE that completes and a STORE out of range. -/

namespace Sys2Proof.Machine

section transferInstr
variable {s : State} {d src : Text} {x y : Val}

/-- A path that writes a register and nothing else completes as a transfer. -/
theorem transferCompleted_setReg (op : Opcode) (v : Val) (hdest : s.reg d = some x) :
    TransferCompleted op d v s ((s.latchVector (generate op)).setReg d v) :=
  ⟨registerWritten_of_setRegAt hdest rfl, rfl⟩

/-- A path that writes a data word and nothing else completes as a STORE. -/
theorem storeCompleted_put (s : State) (a : Nat) (v : Val) :
    StoreCompleted a v s ((s.latchVector (generate .store)).withDmem (s.dmem.put a v)) where
  written := Memory.get_put_same ..
  others _ hb := Memory.get_put_other hb
  rest := rfl
  size := Memory.put_size ..

/-- An address that is NONE or out of range ends a STORE in DISPATCH, with nothing stored (spec 44_data R261). -/
theorem abortsInDispatch_of_store_outOfRange (hdest : s.reg d = some x) (hsrc : resolveSrc .store s src = .ok y)
    (hout : ¬ InRange s.dmem.size y) : AbortsInDispatch (.store d src) s (.invalidAddress .dmem y) := by
  have hwrite : dmemWrite (s.latchVector (generate .store)).dmem y x = .error (.invalidAddress .dmem y) :=
    dmemWrite_error.mpr ⟨rfl, inRange_iff.not.mp hout⟩
  have hexec : exec (.store d src) s = storePath .store x y (s.latchVector (generate .store)) := by
    rw [exec_eq_runInstr]
    exact runInstr_resolved hdest hsrc
  rw [AbortsInDispatch, hexec, storePath, hwrite]
  rfl

/-- A MOVE writes the register that src names; what src resolved to is discarded (spec 44_data R262). -/
theorem exec_move_register {v : Val} (hdest : s.reg d = some x) (hsrc : resolveSrc .move s src = .ok y)
    (hreg : s.reg src = some v) :
    exec (.move d src) s = .next ((s.latchVector (generate .move)).setReg d v) := by
  have hlook : lookupReg (s.latchVector (generate .move)) src src = .ok v := lookupReg_ok.mpr hreg
  rw [exec_eq_runInstr]
  exact (runInstr_resolved hdest hsrc).trans (by rw [dispatch_move, movePath, hlook])

end transferInstr

/-- Settles O25: a LOAD whose operands resolve always completes. -/
theorem loadWritesResolvedSrc : Obligations.LoadWritesResolvedSrc := by
  refine ⟨encoded_of_opcode .load, fun d src s => ⟨fun x y hdest hsrc => ?completes, operandErrors_of_instr _ s⟩⟩
  case completes => exact ⟨_, exec_load_resolved hdest hsrc, transferCompleted_setReg .load y hdest⟩

/-- Settles O26: the bounds check on what src resolves to decides whether the datum is stored. -/
theorem storeWritesDestAtResolvedSrc : Obligations.StoreWritesDestAtResolvedSrc := by
  refine ⟨encoded_of_opcode .store, fun d src s => ⟨?inRange, ?outOfRange, operandErrors_of_instr _ s⟩⟩
  case inRange =>
    intro x a hdest hsrc ha
    exact ⟨_, exec_store_inRange hdest hsrc ha, storeCompleted_put s a x⟩
  case outOfRange =>
    intro x y hdest hsrc hout
    exact abortsInDispatch_of_store_outOfRange hdest hsrc hout

/-- Settles O27: the second look-up of src, as a register's name, decides whether a MOVE completes. -/
theorem moveCopiesRegisterNamedBySrc : Obligations.MoveCopiesRegisterNamedBySrc := by
  refine ⟨encoded_of_opcode .move, fun d src s => ⟨?register, ?noRegister, operandErrors_of_instr _ s⟩⟩
  case register =>
    intro x y v hdest hsrc hreg
    exact ⟨_, exec_move_register hdest hsrc hreg, transferCompleted_setReg .move v hdest⟩
  case noRegister =>
    intro x y hdest hsrc hreg
    exact abortsInDispatch_of_move_src (i := .move d src) rfl hdest hsrc hreg

end Sys2Proof.Machine
end

section
/-! PROOFS. The statements about the errors: where each kind is raised and what its record holds, and what the host may query (spec
60_exceptions R281 to R291, R303). What a cycle that aborts leaves stands above with the cycle. -/

namespace Sys2Proof.Machine

/-! ### DECODE -/

/-- A DECODE error comes after the latches and the increment of PC (spec 40_cycle R144, R145). -/
theorem step_noInstr {s : State} {line : Text} {e : DecodeError} (hfault : s.fault = none) (hline : fetchLine s = .ok line)
    (hdecode : decode line = .error e) :
    step s = .next { s with mar := some s.pc, ir := some line, mbr := some line, pc := s.pc + 1,
                            fault := some ⟨decodeCause e, s.pc, none⟩ } := by
  rw [step, hfault, hline]
  simp only [hdecode]
  rfl

theorem classifyTokens_unknown {m : Text} (d src : Text) (h : ∀ op : Opcode, m ≠ op.mnemonic) :
    classifyTokens m d src = .error (.unknownOpcode m) := by
  have hnone : opcodeOfMnemonic m = none :=
    Option.eq_none_iff_forall_not_mem.mpr fun op hop => h op (opcodeOfMnemonic_eq_some_iff.mp hop)
  rw [classifyTokens, hnone]

/-- One to three tokens, of which the first is no mnemonic: that token is reported (spec 30_encoding R109). -/
theorem decode_unknown {line m : Text} {rest : List Text} (htokens : tokenize line = m :: rest) (hlen : rest.length ≤ 2)
    (h : ∀ op : Opcode, m ≠ op.mnemonic) : decode line = .error (.unknownOpcode m) := by
  rw [decode, htokens]
  match rest, hlen with
  | [], _ => exact classifyTokens_unknown [] [] h
  | [d], _ => exact classifyTokens_unknown d [] h
  | [d, src], _ => exact classifyTokens_unknown d src h

/-- Settles O7: the number of tokens and the first of them decide the error of the decoder, and `step_noInstr` what it leaves. -/
theorem decodeFailuresKeepLatches : Obligations.DecodeFailuresKeepLatches := by
  intro s line hfault hpc hslot
  have hline : fetchLine s = .ok line := fetchLine_ok.mpr ⟨hpc, hslot⟩
  refine ⟨?malformed, ?unknown⟩
  case malformed =>
    rintro (hnone | hmany)
    · exact step_noInstr hfault hline (decode_noTokens hnone)
    · exact step_noInstr hfault hline (decode_tooManyTokens hmany)
  case unknown =>
    intro m rest htokens hlen hunknown
    exact step_noInstr hfault hline (decode_unknown htokens hlen hunknown)

/-! ### AbsentOperand -/

/-- An ALU-class instruction whose operands resolve raises AbsentOperand exactly where its presence check fails: where the check
passes, the cycle completes and FAULT stays as it was (spec 41_alu R182). -/
theorem abortsInDispatch_absent_iff {i : Instr} {s : State} {f : AluOp} {x y : Val} (hfault : s.fault = none)
    (hop : f.opcode = i.opcode) (hdest : s.reg i.dest = some x) (hsrc : resolveSrc i.opcode s i.src = .ok y) :
    AbortsInDispatch i s .absentOperand ↔ presentOk f x y = false := by
  refine ⟨fun haborts => ?_, abortsInDispatch_of_absent hop hdest hsrc⟩
  rw [← Bool.not_eq_true]
  intro hpresent
  obtain ⟨t, hexec, hcompleted⟩ := exec_alu_present hop hdest hsrc hpresent rfl
  have hkept : t.fault = none := by rw [hcompleted.others, hfault]
  rw [haborts] at hexec
  cases hexec
  cases hkept

/-- Settles O37: the presence check of each operation. -/
theorem absentOperandExactlyWhenNeeded : Obligations.AbsentOperandExactlyWhenNeeded := by
  intro f d src s x y hfault hdest hsrc
  rw [abortsInDispatch_absent_iff (f := f) (x := x) (y := y) hfault (by rw [opcode_instr]) (by rwa [dest_instr])
    (by rwa [opcode_instr, src_instr])]
  cases f
  case add | sub | mul | and | or | xor => exact bothPresent_eq_false_iff
  case div => exact presentOk_div_eq_false_iff
  case not | jp | jpz => simp [presentOk]

/-! ### The errors of an opcode -/

/-- The errors of src resolution: of the address that `*R` holds, of the name R, or of a special register's name. -/
theorem resolveSrc_raises {op : Opcode} {s : State} {t : Text} {c : Cause} (h : resolveSrc op s t = .error c) :
    (∃ v, c = .invalidAddress .dmem v ∧ ∃ r, t = '*' :: r) ∨
    (c = .unknownRegister t ∧ ((∃ r, t = '*' :: r) ∨ t ∈ specialNames)) := by
  rcases resolveSrc_error h with ⟨r, ht, ⟨-, hc⟩ | ⟨v, -, hread⟩⟩ | ⟨-, hspecial, -, hc⟩
  · exact .inr ⟨hc, .inl ⟨r, ht⟩⟩
  · exact .inl ⟨v, (dmemRead_error.mp hread).1, r, ht⟩
  · exact .inr ⟨hc, .inr hspecial⟩

/-- JP and JPZ need no operand, so the presence check never fails for them (spec 41_alu R182). -/
theorem opcode_ne_jump_of_absent {f : AluOp} {x y : Val} (h : presentOk f x y = false) :
    f.opcode ≠ .jp ∧ f.opcode ≠ .jpz := by
  cases f
  case jp | jpz => cases h
  all_goals exact ⟨nofun, nofun⟩

/-- Settles O38: one case for each way in which an instruction aborts. -/
theorem errorsEachOpcodeCanRaise : Obligations.ErrorsEachOpcodeCanRaise := by
  intro i s t e hfault hexec he
  have hanswer := exec_answer i s
  rw [hexec] at hanswer
  cases hanswer
  case badDest =>
    cases he
    exact ⟨rfl, .inr (.inl ⟨_, rfl, .inl rfl, .inl rfl⟩)⟩
  case badSrc x c hdest hsrc =>
    cases he
    refine ⟨rfl, ?_⟩
    rcases resolveSrc_raises hsrc with ⟨v, hc, hstar⟩ | ⟨hc, hstar | hspecial⟩
    · exact .inl ⟨v, hc, .inl hstar⟩
    · exact .inr (.inl ⟨_, hc, .inr rfl, .inr (.inl hstar)⟩)
    · exact .inr (.inl ⟨_, hc, .inr rfl, .inr (.inr (.inl hspecial))⟩)
  case absent f x y hf hdest hsrc habsent =>
    cases he
    exact ⟨rfl, .inr (.inr ⟨rfl, ⟨f, hf⟩, hf ▸ opcode_ne_jump_of_absent habsent⟩)⟩
  case badStore x y hop hdest hsrc hout =>
    cases he
    exact ⟨rfl, .inl ⟨y, rfl, .inr hop⟩⟩
  case badMove x y hop hdest hsrc hreg =>
    cases he
    exact ⟨rfl, .inr (.inl ⟨_, rfl, .inr rfl, .inr (.inr (.inr hop))⟩)⟩
  case alu | load | store | move => -- completed: FAULT is as it was
    cases hfault.symm.trans he

/-! ### NoInstructionAtAddress -/

theorem exec_raises_ne_noInstruction {i : Instr} {s t : State} {e : ErrorRecord} (hfault : s.fault = none)
    (hexec : exec i s = .next t) (he : t.fault = some e) : e.cause ≠ .noInstructionAtAddress := by
  obtain ⟨-, ⟨v, hc, -⟩ | ⟨n, hc, -⟩ | ⟨hc, -⟩⟩ := errorsEachOpcodeCanRaise i s t e hfault hexec he
  all_goals simp [hc]

/-- Of the phases of a cycle only FETCH raises NoInstructionAtAddress, for an EMPTY slot (spec 60_exceptions R285). -/
theorem step_noInstruction_iff {s : State} (hfault : s.fault = none) :
    (∃ t e, step s = .next t ∧ t.fault = some e ∧ e.cause = .noInstructionAtAddress) ↔
      s.pc < s.imem.size ∧ s.imem.get s.pc = none := by
  constructor
  · rintro ⟨t, e, hstep, he, hcause⟩
    have hanswer := step_answer s
    generalize step s = r at hstep hanswer
    cases hanswer
    case stuck => cases hstep
    case noFetch c _ hfetch =>
      cases hstep
      cases he
      rcases fetchLine_error.mp hfetch with ⟨hpc, hempty, -⟩ | ⟨-, rfl⟩
      · exact ⟨hpc, hempty⟩
      · cases hcause
    case noInstr line d _ _ _ =>
      cases hstep
      cases he
      cases d <;> cases hcause
    case ran line i _ _ _ =>
      exact absurd hcause (exec_raises_ne_noInstruction (s := s.latchLine line) hfault hstep he)
  · rintro ⟨hpc, hempty⟩
    exact ⟨_, _, step_noFetch hfault (fetchLine_error.mpr (.inl ⟨hpc, hempty, rfl⟩)), rfl, rfl⟩

/-- The EMPTY slots of a loaded program are those past it. -/
theorem ProgramLoaded.slot_empty_iff {s : State} (h : ProgramLoaded s) (a : Nat) : s.imem.get a = none ↔ s.k ≤ a := by
  obtain ⟨-, hslots⟩ := h
  rw [← Option.not_isSome_iff_eq_none, hslots a, Nat.not_lt]

theorem ProgramLoaded.of_step {s t : State} (h : ProgramLoaded s) (hstep : step s = .next t) : ProgramLoaded t := by
  obtain ⟨⟨himem, hk, -⟩, -⟩ := step_memories hstep
  rwa [ProgramLoaded, himem, hk]

/-! ### The loader's loop -/

/-- The slots below `n` hold lines and the others are EMPTY: what `ProgramLoaded` says of K and IMEM, at any point of the loop. -/
def FilledBelow (n : Nat) (m : Memory Text) : Prop :=
  n ≤ m.size ∧ ∀ a, (m.get a).isSome = true ↔ a < n

theorem programLoaded_iff (s : State) : ProgramLoaded s ↔ FilledBelow s.k s.imem := Iff.rfl

theorem filledBelow_empty (size : Nat) : FilledBelow 0 { size := size, cells := [] } :=
  ⟨Nat.zero_le _, fun a => by simp [Memory.get]⟩

theorem FilledBelow.put {n : Nat} {m : Memory Text} (h : FilledBelow n m) (hn : n < m.size) (line : Text) :
    FilledBelow (n + 1) (m.put n (some line)) := by
  obtain ⟨-, hslots⟩ := h
  refine ⟨by rwa [Memory.put_size], fun a => ?_⟩
  rw [Memory.get_put]
  split_ifs with ha
  · simp [ha]
  · rw [hslots a]
    omega

/-- The loop stores each line in the first EMPTY slot and leaves out the blank ones, so it ends past the last line stored
(spec 70_reset R312). -/
theorem storeLines_filledBelow {lines : List Text} {addr n : Nat} {m m' : Memory Text} (h : FilledBelow addr m)
    (hstore : storeLines addr lines m = (m', .ok n)) : FilledBelow n m' := by
  induction lines generalizing addr m with
  | nil =>
    cases hstore
    exact h
  | cons line rest ih =>
    rw [storeLines] at hstore
    split at hstore
    case isTrue => exact ih h hstore
    case isFalse =>
      split at hstore
      case h_1 m'' hwrite =>
        obtain ⟨i, hi, hlt, rfl⟩ := imemWrite_ok.mp hwrite
        obtain rfl : addr = i := by omega
        exact ih (h.put hlt line) hstore
      case h_2 => cases hstore

/-- A load that is done stored all its lines, and K is the number of them (spec 70_reset R312). -/
theorem load_ok {lines : List Text} {s t : State} (h : load lines s = .ok t) :
    ∃ m n, storeLines 0 lines s.imem = (m, .ok n) ∧ t = { s with imem := m, k := n, loaded := true } := by
  rw [load] at h
  split at h
  case isTrue => cases h
  case isFalse =>
    split at h
    case h_1 m n hstore =>
      cases h
      exact ⟨m, n, hstore, rfl⟩
    case h_2 => cases h

theorem programLoaded_of_load {c : Config} {lines : List Text} {t : State} (h : load lines (State.construct c) = .ok t) :
    ProgramLoaded t := by
  obtain ⟨m, n, hstore, rfl⟩ := load_ok h
  exact storeLines_filledBelow (filledBelow_empty c.imemSize) hstore

/-! ### Runs of a loaded program -/

/-- What every step of the loop keeps, a run keeps: the loop steps only without an error and below K (spec 40_cycle R160). -/
theorem runFor_keeps {P : State → Prop}
    (hkeep : ∀ s t, P s → s.fault = none → s.pc < s.k → step s = .next t → P t) {n : Nat} {s t : State} (hs : P s)
    (hrun : runFor n s = .next t) : P t := by
  induction n generalizing s with
  | zero =>
    cases hrun
    exact hs
  | succ n ih =>
    by_cases hgo : s.fault = none ∧ s.pc < s.k
    · obtain ⟨hfault, hpc⟩ := hgo
      obtain ⟨u, hstep⟩ := step_has_next hfault
      rw [runFor_step n hfault hpc hstep] at hrun
      exact ih (hkeep s u hs hfault hpc hstep) hrun
    · have hstop : runFor (n + 1) s = .next s := by
        rw [runFor, if_neg (by simpa using hgo)]
      cases hstop.symm.trans hrun
      exact hs

/-- A program is loaded, and no error recorded is that of an EMPTY slot. -/
def NoEmptyFetch (s : State) : Prop :=
  ProgramLoaded s ∧ ∀ e, s.fault = some e → e.cause ≠ .noInstructionAtAddress

/-- A step below K finds a line (spec 60_exceptions R285). -/
theorem NoEmptyFetch.of_step {s t : State} (h : NoEmptyFetch s) (hfault : s.fault = none) (hpc : s.pc < s.k)
    (hstep : step s = .next t) : NoEmptyFetch t := by
  obtain ⟨hloaded, -⟩ := h
  refine ⟨hloaded.of_step hstep, fun e he hcause => ?_⟩
  obtain ⟨-, hempty⟩ := (step_noInstruction_iff hfault).mp ⟨t, e, hstep, he, hcause⟩
  exact absurd ((hloaded.slot_empty_iff s.pc).mp hempty) (by omega)

/-- Settles O57: a load fills the slots below K, the EMPTY slots are the others, and a run fetches below K only. -/
theorem noInstructionExactlyPastProgram : Obligations.NoInstructionExactlyPastProgram := by
  refine ⟨fun _ _ _ => programLoaded_of_load, ?step, ?run⟩
  case step =>
    intro s hloaded hfault
    rw [step_noInstruction_iff hfault, hloaded.slot_empty_iff, and_comm]
  case run =>
    intro s t e hloaded hfault hrun he
    have hstart : NoEmptyFetch s := ⟨hloaded, by simp [hfault]⟩
    obtain ⟨-, hend⟩ := runFor_keeps (fun _ _ => NoEmptyFetch.of_step) hstart hrun
    exact hend e he

/-! ### Records and queries -/

/-- Settles O40: the codes and the fields, kind by kind. -/
theorem errorRecordsCarryCodeAndContext : Obligations.ErrorRecordsCarryCodeAndContext :=
  ⟨rfl, fun _ _ _ _ _ => ⟨⟨rfl, rfl⟩, ⟨rfl, rfl⟩, rfl, ⟨rfl, rfl⟩, ⟨rfl, rfl⟩, rfl⟩⟩

/-- Settles O59: a register query is the look-up by name, a data query the bounds-checked access. -/
theorem hostQueriesAnswerFromState : Obligations.HostQueriesAnswerFromState := by
  refine ⟨fun s n v hreg => ?register, fun s n hreg => ?noRegister, fun s a ha => ?word, fun s a hout => ?noWord,
    fun _ => ⟨rfl, rfl, rfl, rfl, rfl, rfl, rfl, rfl, rfl, rfl⟩⟩
  case register => exact lookupReg_ok.mpr hreg
  case noRegister => exact lookupReg_error.mpr ⟨hreg, rfl⟩
  case word => exact dmemRead_ok.mpr ⟨a, rfl, ha, rfl⟩
  case noWord => exact dmemRead_error.mpr ⟨rfl, inRange_iff.not.mp hout⟩

end Sys2Proof.Machine
end

section
/-! PROOFS. The statements about the host's calls before the first step: the program loader and the preloads (spec 70_reset R312 to
R316). Where the loader's lines end up is said once, for a load that is done and for one that finds no slot. -/

namespace Sys2Proof.Machine

/-! ### The first step -/

theorem started_of_mar {s : State} {a : Int} (h : s.mar = some a) : s.started = true := by
  simp [State.started, h]

theorem started_of_fault {s : State} {e : ErrorRecord} (h : s.fault = some e) : s.started = true := by
  simp [State.started, h]

/-- A step that fetches a line leaves its address in MAR, and one that fetches none leaves an error in FAULT. -/
theorem started_of_step {s t : State} (h : step s = .next t) : t.started = true := by
  have hanswer := step_answer s
  generalize step s = r at h hanswer
  cases hanswer
  case stuck => cases h
  case noFetch => cases h; exact started_of_fault rfl
  case noInstr => cases h; exact started_of_fault rfl
  case ran line i _ _ _ => exact started_of_mar (exec_fetchKept h).mar

/-! ### Preloads -/

theorem preloadRegister_refused {s : State} (n : Text) (v : Val) (h : s.started = true) :
    preloadRegister n v s = .refused .bootOrder := by
  rw [preloadRegister, if_pos h]

theorem preloadRegister_known {s : State} {n : Text} {w : Val} (v : Val) (hstart : s.started = false) (hreg : s.reg n = some w) :
    preloadRegister n v s = .ok (s.setReg n v) := by
  simp [preloadRegister, hstart, lookupReg_ok.mpr hreg]

theorem preloadRegister_unknown {s : State} {n : Text} (v : Val) (hstart : s.started = false) (hreg : s.reg n = none) :
    preloadRegister n v s = .error (.unknownRegister n) s := by
  simp [preloadRegister, hstart, lookupReg_error.mpr ⟨hreg, rfl⟩]

theorem preloadData_refused {s : State} (a : Int) (v : Val) (h : s.started = true) :
    preloadData a v s = .refused .bootOrder := by
  rw [preloadData, if_pos h]

theorem preloadData_inRange {s : State} {a : Nat} (v : Val) (hstart : s.started = false) (ha : a < s.dmem.size) :
    preloadData a v s = .ok (s.withDmem (s.dmem.put a v)) := by
  simp [preloadData, hstart, dmemWrite_ok.mpr ⟨a, rfl, ha, rfl⟩]

theorem preloadData_outOfRange {s : State} {a : Int} (v : Val) (hstart : s.started = false)
    (hout : ¬ InRange s.dmem.size (some a)) : preloadData a v s = .error (.invalidAddress .dmem (some a)) s := by
  simp [preloadData, hstart, dmemWrite_error.mpr ⟨rfl, inRange_iff.not.mp hout⟩]

/-- Settles O56: the look-up of the name and the bounds check of the address decide, and the write is that of a register or a word. -/
theorem preloadWritesOneRegisterOrWord : Obligations.PreloadWritesOneRegisterOrWord := by
  refine fun s v hstart => ⟨fun n w hreg => ?register, fun n => preloadRegister_unknown v hstart, fun a ha => ?word,
    fun a => preloadData_outOfRange v hstart⟩
  case register =>
    exact ⟨_, preloadRegister_known v hstart hreg, registerWritten_of_setRegAt hreg rfl, rfl⟩
  case word =>
    obtain ⟨hsize, hwritten, hothers⟩ := s.dmem.put_readBack a v
    exact ⟨_, preloadData_inRange v hstart ha, hwritten, hothers, hsize, rfl⟩

/-! ### The lines that are stored -/

/-- `m'` is `m` with the lines at the slots from `addr` on, as far as there are slots. -/
structure LinesStored (addr : Nat) (kept : List Text) (m m' : Memory Text) : Prop where
  size : m'.size = m.size
  stored : ∀ i, i < kept.length → addr + i < m.size → m'.get (addr + i) = kept[i]?
  others : ∀ a, a < addr ∨ addr + kept.length ≤ a → m'.get a = m.get a

theorem LinesStored.nil (addr : Nat) (m : Memory Text) : LinesStored addr [] m m :=
  ⟨rfl, nofun, fun _ _ => rfl⟩

/-- Where the slots are used up, no line is stored. -/
theorem LinesStored.full {addr : Nat} {m : Memory Text} (h : m.size ≤ addr) (kept : List Text) : LinesStored addr kept m m :=
  ⟨rfl, fun _ _ hlt => by omega, fun _ _ => rfl⟩

/-- One line stored in front of the others. -/
theorem LinesStored.cons {addr : Nat} {line : Text} {kept : List Text} {m m' : Memory Text}
    (h : LinesStored (addr + 1) kept (m.put addr (some line)) m') : LinesStored addr (line :: kept) m m' := by
  obtain ⟨hsize, hstored, hothers⟩ := h
  rw [Memory.put_size] at hsize hstored
  refine ⟨hsize, fun i hi hlt => ?stored, fun a ha => ?others⟩
  case stored =>
    cases i with
    | zero => rw [Nat.add_zero, hothers addr (.inl (by omega)), Memory.get_put_same, List.getElem?_cons_zero]
    | succ j =>
      rw [List.length_cons] at hi
      rw [List.getElem?_cons_succ, show addr + (j + 1) = addr + 1 + j by omega]
      exact hstored j (by omega) (by omega)
  case others =>
    rw [List.length_cons] at ha
    rw [hothers a (by omega), Memory.get_put_other (by omega)]

/-! ### The loader -/

theorem storeLines_blank {line : Text} (addr : Nat) (rest : List Text) (m : Memory Text) (h : isBlank line = true) :
    storeLines addr (line :: rest) m = storeLines addr rest m := by
  rw [storeLines, if_pos h]

theorem storeLines_fits {addr : Nat} {line : Text} {m : Memory Text} (rest : List Text) (h : isBlank line = false)
    (hlt : addr < m.size) :
    storeLines addr (line :: rest) m = storeLines (addr + 1) rest (m.put addr (some line)) := by
  simp [storeLines, h, imemWrite_ok.mpr ⟨addr, rfl, hlt, rfl⟩]

theorem storeLines_noSlot {line : Text} {m : Memory Text} (rest : List Text) (h : isBlank line = false) :
    storeLines m.size (line :: rest) m = (m, .error (.invalidAddress .imem (some (m.size : Int)))) := by
  have hout : ¬ InRange m.size (some (m.size : Int)) := by simp [inRange_iff]
  simp [storeLines, h, imemWrite_error.mpr ⟨rfl, hout⟩]

/-- The loop stores the lines that are not blank as far as there are slots, and answers the address after them, or InvalidAddress of
the one after the last slot where a line is left (spec 70_reset R312, R313). -/
theorem storeLines_stored (lines : List Text) {addr : Nat} {m : Memory Text} (haddr : addr ≤ m.size) {kept : List Text}
    (hkept : kept = lines.filter (fun l => !isBlank l)) :
    ∃ m', LinesStored addr kept m m' ∧ storeLines addr lines m =
      (m', if addr + kept.length ≤ m.size then .ok (addr + kept.length)
           else .error (.invalidAddress .imem (some (m.size : Int)))) := by
  subst hkept
  induction lines generalizing addr m with
  | nil => exact ⟨m, .nil addr m, by simp [storeLines, haddr]⟩
  | cons line rest ih =>
    cases hblank : isBlank line with
    | true =>
      rw [storeLines_blank addr rest m hblank, List.filter_cons_of_neg (by simp [hblank])]
      exact ih haddr
    | false =>
      rw [List.filter_cons_of_pos (by simp [hblank]), List.length_cons]
      rcases haddr.lt_or_eq with hlt | rfl
      · obtain ⟨m', hstored, hstore⟩ := ih (addr := addr + 1) (m := m.put addr (some line)) (by rwa [Memory.put_size])
        refine ⟨m', hstored.cons, ?_⟩
        rw [storeLines_fits rest hblank hlt, hstore, Memory.put_size, Nat.add_right_comm, Nat.add_assoc]
      · exact ⟨m, .full le_rfl _, by rw [storeLines_noSlot rest hblank, if_neg (by omega)]⟩

theorem load_refused {s : State} (lines : List Text) (h : s.loaded = true ∨ s.started = true) :
    load lines s = .refused .bootOrder := by
  rw [load, if_pos (by simpa using h)]

theorem load_of_stored {lines : List Text} {s : State} {m : Memory Text} {n : Nat} (hload : s.loaded = false)
    (hstart : s.started = false) (hstore : storeLines 0 lines s.imem = (m, .ok n)) :
    load lines s = .ok { s with imem := m, k := n, loaded := true } := by
  simp [load, hload, hstart, hstore]

theorem load_of_stopped {lines : List Text} {s : State} {m : Memory Text} {c : Cause} (hload : s.loaded = false)
    (hstart : s.started = false) (hstore : storeLines 0 lines s.imem = (m, .error c)) :
    load lines s = .error c { s with imem := m, loaded := true } := by
  simp [load, hload, hstart, hstore]

/-- Settles O54: K is where the loop ends, and a load with a line left over has filled every slot. -/
theorem loaderStoresNonBlankLines : Obligations.LoaderStoresNonBlankLines := by
  intro s lines kept hload hstart hkept
  obtain ⟨m, ⟨hsize, hstored, hothers⟩, hstore⟩ := storeLines_stored lines (Nat.zero_le s.imem.size) hkept
  simp only [Nat.zero_add] at hstored hothers hstore
  refine ⟨fun hfits => ?done, fun hover => ?stopped⟩
  case done =>
    rw [if_pos hfits] at hstore
    exact ⟨_, load_of_stored hload hstart hstore, rfl, hsize, fun i hi => hstored i hi (by omega),
      fun i hi => hothers i (.inr hi)⟩
  case stopped =>
    rw [if_neg (by omega)] at hstore
    exact ⟨_, load_of_stopped hload hstart hstore, rfl, hsize, fun i hi => hstored i (by omega) hi⟩

/-- A load that ends in an error stored some lines and left K as it was (spec 70_reset R313). -/
theorem load_error {lines : List Text} {s t : State} {c : Cause} (h : load lines s = .error c t) :
    ∃ m, storeLines 0 lines s.imem = (m, .error c) ∧ t = { s with imem := m, loaded := true } := by
  rw [load] at h
  split at h
  case isTrue => cases h
  case isFalse =>
    split at h
    case h_1 => cases h
    case h_2 m d hstore =>
      cases h
      exact ⟨m, hstore, rfl⟩

/-- A load that answers has used up the one call, with an error too (log 6). -/
theorem load_sets_loaded {lines : List Text} {s t : State} (h : load lines s = .ok t ∨ ∃ c, load lines s = .error c t) :
    t.loaded = true := by
  rcases h with hok | ⟨c, herror⟩
  · obtain ⟨m, n, -, rfl⟩ := load_ok hok
    rfl
  · obtain ⟨m, -, rfl⟩ := load_error herror
    rfl

/-- Settles O55: the guards of the three calls, which a load that answers and every step set. -/
theorem loaderIsCalledOnceBeforeFirstStep : Obligations.LoaderIsCalledOnceBeforeFirstStep :=
  ⟨fun lines _ => load_refused lines, fun _ _ _ => load_sets_loaded, fun _ _ => started_of_step,
   fun _ n a v hstart => ⟨preloadRegister_refused n v hstart, preloadData_refused a v hstart⟩⟩

end Sys2Proof.Machine
end

section
/-! PROOFS. The statements about the encoder and the decoder: what a line decodes to, in terms of its tokens, and that decoding and
encoding agree (spec 30_encoding R101 to R103, R108, R122). -/

namespace Sys2Proof.Machine

/-! ### What a line decodes to -/

/-- An instruction is its opcode with its two tokens. -/
theorem instr_opcode_dest_src (i : Instr) : i.opcode.instr i.dest i.src = i := by
  cases i <;> rfl

/-- Well-formedness token by token: a src token stands behind a dest token (spec 30_encoding R101, R103). -/
theorem wf_instr_iff (op : Opcode) (d src : Text) :
    (op.instr d src).wf = true ↔ hasNoSep d = true ∧ hasNoSep src = true ∧ (d = [] → src = []) := by
  simp [Instr.wf, and_assoc, imp_iff_not_or]

/-- A recognised mnemonic gives its opcode with the two tokens (spec 30_encoding R107). -/
theorem classifyTokens_ok {m d src : Text} {i : Instr} (h : classifyTokens m d src = .ok i) :
    ∃ op : Opcode, m = op.mnemonic ∧ i = op.instr d src := by
  rw [classifyTokens] at h
  split at h <;> cases h
  case h_1 op hop => exact ⟨op, opcodeOfMnemonic_eq_some_iff.mp hop, rfl⟩

/-- A line with the tokens of a well-formed instruction decodes to it: one case for each number of operand tokens. -/
theorem decode_of_tokens {line : Text} {i : Instr} (hwf : i.wf = true) (htokens : tokenize line = i.tokens) :
    decode line = .ok i := by
  obtain ⟨op, d, src, rfl⟩ : ∃ op d src, i = Opcode.instr op d src := ⟨_, _, _, (instr_opcode_dest_src i).symm⟩
  obtain ⟨-, -, hmissing⟩ := (wf_instr_iff op d src).mp hwf
  rw [Instr.tokens, opcode_instr, dest_instr, src_instr] at htokens
  by_cases hd : d = []
  · obtain rfl := hmissing hd
    subst hd
    exact decode_mnemonic htokens
  · rw [consToken_of_ne_nil _ hd] at htokens
    by_cases hsrc : src = []
    · subst hsrc
      exact decode_mnemonic_dest htokens
    · rw [consToken_of_ne_nil _ hsrc] at htokens
      exact decode_mnemonic_dest_src htokens

/-- A line that decodes has the tokens of its instruction, which is well-formed because the tokenizer makes tokens only. -/
theorem tokens_of_decode {line : Text} {i : Instr} (h : decode line = .ok i) :
    i.wf = true ∧ tokenize line = i.tokens := by
  have htoken : ∀ u ∈ tokenize line, IsToken u := fun _ => isToken_of_mem_tokenize
  unfold decode at h
  split at h
  case h_1 m htokens =>
    obtain ⟨op, rfl, rfl⟩ := classifyTokens_ok h
    exact ⟨(wf_instr_iff ..).mpr ⟨rfl, rfl, fun _ => rfl⟩, by simp [htokens, Instr.tokens]⟩
  case h_2 m d htokens =>
    obtain ⟨op, rfl, rfl⟩ := classifyTokens_ok h
    obtain ⟨hne, hsep⟩ := htoken d (by simp [htokens])
    exact ⟨(wf_instr_iff ..).mpr ⟨hsep, rfl, fun _ => rfl⟩,
      by simp [htokens, Instr.tokens, consToken_of_ne_nil _ hne]⟩
  case h_3 m d src htokens =>
    obtain ⟨op, rfl, rfl⟩ := classifyTokens_ok h
    obtain ⟨hne, hsep⟩ := htoken d (by simp [htokens])
    obtain ⟨hneSrc, hsepSrc⟩ := htoken src (by simp [htokens])
    exact ⟨(wf_instr_iff ..).mpr ⟨hsep, hsepSrc, fun hd => absurd hd hne⟩,
      by simp [htokens, Instr.tokens, consToken_of_ne_nil _ hne, consToken_of_ne_nil _ hneSrc]⟩
  case h_4 => cases h

/-- The decoder in one line: it answers the well-formed instruction whose tokens the line has. -/
theorem decode_ok_iff {line : Text} {i : Instr} : decode line = .ok i ↔ i.wf = true ∧ tokenize line = i.tokens :=
  ⟨tokens_of_decode, fun ⟨hwf, htokens⟩ => decode_of_tokens hwf htokens⟩

/-! ### Decoding and encoding -/

/-- The conventional spelling has the tokens of the instruction (spec 30_encoding R122). -/
theorem tokenize_encode {i : Instr} (hwf : i.wf = true) : tokenize (encode i) = i.tokens := by
  have h := tokenize_encode_instr i.opcode i.dest i.src
  rw [instr_opcode_dest_src] at h
  exact h hwf

/-- Settles O44: the line that the encoder writes has the instruction's tokens, and these decide what it decodes to. -/
theorem decodeOfEncodeIsIdentity : Obligations.DecodeOfEncodeIsIdentity := fun _ hwf =>
  decode_ok_iff.mpr ⟨hwf, tokenize_encode hwf⟩

/-- Settles O45: line and conventional spelling both have the instruction's tokens. -/
theorem decodedLinesAreWellFormed : Obligations.DecodedLinesAreWellFormed := by
  intro line i hdecode
  obtain ⟨hwf, htokens⟩ := decode_ok_iff.mp hdecode
  exact ⟨hwf, (tokenize_encode hwf).trans htokens.symm⟩

/-- Settles O46, by decoding each line. -/
theorem sampleLinesDecode : Obligations.SampleLinesDecode :=
  ⟨rfl, rfl, rfl, rfl, rfl, rfl, rfl, rfl, rfl⟩

/-! ### The opcode table -/

/-- A code selects its own opcode: no two are the same (spec 30_encoding R108). -/
theorem opcodeOfCode_code (op : Opcode) : opcodeOfCode op.code = some op := by
  cases op <;> decide

/-- The line that stands for a table word is that of a well-formed instruction of the word's opcode (log 5). -/
theorem tableInstr_wf (op : Opcode) : (tableInstr op).wf = true := by
  cases op <;> decide

theorem tableInstr_opcode (op : Opcode) : (tableInstr op).opcode = op := by
  cases op <;> rfl

theorem tableLine_code (op : Opcode) : tableLine 8 op.code.toNat = some (encode (tableInstr op)) := by
  have hbits : op.code.toNat % 2 ^ 8 = op.code.toNat := Nat.mod_eq_of_lt (by omega)
  rw [tableLine, hbits, BitVec.ofNat_toNat, BitVec.setWidth_eq, opcodeOfCode_code, Option.map_some]

theorem decodeTableWord_code (op : Opcode) : decodeTableWord 8 op.code.toNat = some (tableInstr op) := by
  rw [decodeTableWord, tableLine_code, Option.bind_some, decodeOfEncodeIsIdentity _ (tableInstr_wf op)]
  rfl

/-- Settles O48: the code in a word selects the opcode, and the line written for it decodes back; the reserved codes have no line. -/
theorem tableCodesNameInstructions : Obligations.TableCodesNameInstructions := by
  refine ⟨fun op => ?_, rfl, rfl, rfl⟩
  rw [decodeTableWord_code, Option.map_some, tableInstr_opcode]

end Sys2Proof.Machine
end

section
/-! PROOFS. The statements about a step as a whole: the invariant, the next state, the stop, and who writes the flags (spec 10_state R35
to R54, 40_cycle R141 to R168). -/

namespace Sys2Proof.Machine

/-! ### The invariant, operation by operation -/

/-- The invariant holds of a core just constructed: nothing is latched and both memories are empty. -/
theorem inv_construct {c : Config} (hnames : gprNamesOk c.gprNames = true) : Inv (State.construct c) where
  imem := (construct_memories_wf c).1
  dmem := (construct_memories_wf c).2
  names := by
    have hconfig : (State.construct c).gpr.map Register.name = c.gprNames := congrArg Config.gprNames (construct_config c)
    rwa [hconfig]
  latches := .inl ⟨rfl, rfl, rfl, rfl⟩
  alu := ⟨rfl, rfl⟩
  vector := .inl rfl
  fault := nofun

/-- Settles O2. -/
theorem invariantHoldsAtReset : Obligations.InvariantHoldsAtReset :=
  ⟨fun _ => inv_construct, inv_construct (by decide)⟩

section operations
variable {s : State}

theorem Inv.setReg (h : Inv s) (n : Text) (v : Val) : Inv (s.setReg n v) :=
  { h with names := by simpa using h.names }

theorem Inv.withDmem (h : Inv s) {m : Memory Int} (hm : m.wf = true) : Inv (s.withDmem m) :=
  { h with dmem := hm }

theorem Inv.latchVector (h : Inv s) (op : Opcode) : Inv (s.latchVector (generate op)) :=
  { h with vector := .inr ⟨op, rfl⟩ }

/-- An ALU call on present operands makes ALU_EXPR, ALU_VALUE, Z and S anew, all of the one call (spec 41_alu R180, R183, R185). -/
theorem Inv.latchAlu (h : Inv s) {f : AluOp} {x y : Val} (hpresent : presentOk f x y = true) :
    Inv (s.latchAlu f x y (aluCompute f x y)) :=
  { h with alu := ⟨hpresent, rfl, rfl, rfl⟩ }

/-- The line at PC is latched in IR and MBR, its address in MAR, and PC goes one past it (spec 40_cycle R142, R144). -/
theorem Inv.latchLine (h : Inv s) (hfault : s.fault = none) (line : Text) : Inv (s.latchLine line) :=
  { h with
    latches := .inr ⟨s.pc, line, rfl, rfl, rfl, rfl⟩
    fault := fun e he => by cases hfault.symm.trans he }

/-- Recording an error keeps the invariant where the record locates its instruction. -/
theorem Inv.recordFault (h : Inv s) {e : ErrorRecord} (hlocated : FaultLocated (s.recordFault e)) : Inv (s.recordFault e) :=
  { h with fault := hlocated }

/-- An error of DECODE or later is located by the address in MAR (spec 40_cycle R165). -/
theorem faultLocated_of_mar {e : ErrorRecord} (hmar : s.mar = some (e.address : Int)) : FaultLocated (s.recordFault e) := by
  rintro _ ⟨⟩
  exact .inr hmar

/-- An error of FETCH is located by the address in PC (spec 40_cycle R143). -/
theorem faultLocated_of_fetch {c : Cause} (hfetch : fetchLine s = .error c) :
    FaultLocated (s.recordFault { cause := c, address := s.pc, opcode := none }) := by
  rintro _ ⟨⟩
  rcases fetchLine_error.mp hfetch with ⟨-, -, hc⟩ | ⟨-, hc⟩
  · exact .inl ⟨rfl, rfl, .inl hc⟩
  · exact .inl ⟨rfl, rfl, .inr hc⟩

end operations

/-- An instruction keeps the invariant of a state whose MAR holds the fetch address of the cycle, as DECODE leaves it. -/
theorem inv_of_exec {i : Instr} {s t : State} (h : Inv s) (hmar : s.mar = some (s.fetchAddress : Int))
    (hexec : exec i s = .next t) : Inv t := by
  have hvector : Inv (s.latchVector (generate i.opcode)) := h.latchVector i.opcode
  have hanswer := exec_answer i s
  rw [hexec] at hanswer
  cases hanswer
  case badDest | badSrc => exact h.recordFault (faultLocated_of_mar hmar)
  case absent | badStore | badMove => exact hvector.recordFault (faultLocated_of_mar hmar)
  case alu hpresent => exact (hvector.latchAlu hpresent).setReg _ _
  case load | move => exact hvector.setReg _ _
  case store ha => exact hvector.withDmem (Memory.put_wf h.dmem ha)

/-- Settles O3: each way a step can answer is made of operations that keep the invariant. -/
theorem invariantKeptByEveryStep : Obligations.InvariantKeptByEveryStep := by
  intro s t h hstep
  have hanswer := step_answer s
  generalize step s = r at hstep hanswer
  cases hanswer
  case stuck => cases hstep
  case noFetch c hfault hfetch =>
    cases hstep
    exact h.recordFault (faultLocated_of_fetch hfetch)
  case noInstr line e hfault hline hdecode =>
    cases hstep
    exact (h.latchLine hfault line).recordFault (faultLocated_of_mar rfl)
  case ran line i hfault hline hdecode => exact inv_of_exec (h.latchLine hfault line) rfl hstep

/-! ### What a step answers -/

/-- Settles O9. -/
theorem everyCycleHasNextState : Obligations.EveryCycleHasNextState :=
  ⟨exec_has_next, fun _ => step_has_next⟩

/-- A line that decodes is latched, and its instruction runs (spec 40_cycle R168). -/
theorem step_ran {s : State} {line : Text} {i : Instr} (hfault : s.fault = none) (hline : fetchLine s = .ok line)
    (hdecode : decode line = .ok i) : step s = exec i (s.latchLine line) := by
  simp only [step, hfault, hline, hdecode]

/-- Settles O4: FETCH answers the line in the slot. -/
theorem stepRunsDecodedInstruction : Obligations.StepRunsDecodedInstruction := fun _ _ _ hfault hpc hslot hdecode =>
  step_ran hfault (fetchLine_ok.mpr ⟨hpc, hslot⟩) hdecode

theorem step_faulted {s : State} {e : ErrorRecord} (hfault : s.fault = some e) : step s = .fault (.stuck e) := by
  rw [step, hfault]

/-- Settles O5: neither the step nor the loop of the run goes on with an error in FAULT. -/
theorem recordedFaultStopsCore : Obligations.RecordedFaultStopsCore := fun _ _ hfault =>
  ⟨step_faulted hfault, runFor_faulted _ hfault⟩

/-! ### The writers of the flags -/

/-- An ALU call leaves Z and S that describe ALU_VALUE; no other instruction writes a flag (spec 10_state R44, 41_alu R183). -/
theorem exec_psw {i : Instr} {s t : State} (h : exec i s = .next t) : t.psw = s.psw ∨
    (IsAluOpcode i.opcode ∧ t.psw.z = some (zeroOf t.aluValue) ∧ t.psw.s = some (signOf t.aluValue)) := by
  rcases exec_aluKept_or_called h with hkept | ⟨f, x, y, hf, hvalue, hpsw⟩
  · exact .inl hkept.psw
  · rw [hvalue, hpsw]
    exact .inr ⟨⟨f, hf⟩, rfl, rfl⟩

/-- Settles O11: under any opcode but the writers of C and of O these flags are kept. -/
theorem flagsChangeOnlyByTheirWriters : Obligations.FlagsChangeOnlyByTheirWriters := by
  intro i s t h
  refine ⟨exec_psw h, fun hchanged => ?carry, fun hchanged => ?overflow⟩
  case carry =>
    by_contra hop
    obtain ⟨hadd, hsub, hmul⟩ : i.opcode ≠ .add ∧ i.opcode ≠ .sub ∧ i.opcode ≠ .mul := by simpa using hop
    exact hchanged (exec_carry h hadd hsub hmul)
  case overflow =>
    by_contra hop
    obtain ⟨hadd, hsub⟩ : i.opcode ≠ .add ∧ i.opcode ≠ .sub := by simpa using hop
    exact hchanged (exec_overflow h hadd hsub)

end Sys2Proof.Machine
end
